-- ==== Sys2Proof/Word.lean ====
section
/-! DEFINITION. The word types of the block: the widths of `10_state.md` R12 and `30_encoding.md` R50.
A type is a bit vector where the spec numbers bits, and a `Vector` where it numbers bytes or cells. -/

namespace Sys2Proof

/-- One byte of a 128-bit value. -/
abbrev Byte := BitVec 8

/-- A 128-bit value, `V[127:0]` (`10_state.md` R13). -/
abbrev Value := BitVec 128

/-- The 16 bytes `byte[0] .. byte[15]` of a value (`10_state.md` R13). -/
abbrev Bytes := Vector Byte 16

/-- A character cell (`30_encoding.md` R56). -/
abbrev Cell := BitVec 8

/-- The 22 character cells a string is carried in (`10_state.md` R14). -/
abbrev Chars := Vector Cell 22

/-- A base-64 digit, 0 to 63 (`40_codec.md` R80). -/
abbrev Digit := Fin 64

/-- The digits of a string all of whose 22 cells are in the alphabet. -/
abbrev Digits := Vector Digit 22

/-- An integer port, 64 bits, bit 63 the sign (`10_state.md` R20). -/
abbrev IntWord := BitVec 64

/-- A string length, counted in cells (`30_encoding.md` R55). -/
abbrev Len := BitVec 8

/-- An operation code (`30_encoding.md` R51). -/
abbrev OpCode := BitVec 3

/-- A status code (`60_exceptions.md` R150). -/
abbrev StatusCode := BitVec 3

/-- Half a byte: one hexadecimal digit of a written value (`20_memory.md` R33). -/
abbrev Nibble := BitVec 4

end Sys2Proof
end

