-- ==== Sys2Proof/Config.lean ====
section
/-! DEFINITION. The implementation parameters of `00_scope.md` R5. All are fixed but `LATENCY`.
The widths stand as the types of `Word.lean`; the parameters here are the ones definitions read. -/

namespace Sys2Proof.Config

/-- `STR_LEN`: characters in a compact string. -/
abbrev strLen : Nat := 22

/-- `RADIX` of the digits. -/
abbrev radix : Nat := 64

/-- `GROUP_WIDTHS`: characters per digit group (`40_codec.md` R82). -/
abbrev groupWidths : List Nat := [2, 4, 4, 4, 4, 4]

/-- The longest length `CMD.len` can show; the host presents it for every longer string (`30_encoding.md` R55). -/
abbrev lenLimit : Nat := 255

/-- Bits of a command: 3 + 128 + 8 + 176 + 64 (`30_encoding.md` R50). -/
abbrev commandBits : Nat := 379

/-- `LATENCY`: clock cycles from command to response (`70_reset_and_hazards.md` R186). It is a constant of the
implementation, any value, and no rule reads it, so no definition here does (log 5). -/
opaque latency : Nat

end Sys2Proof.Config
end

