-- ==== Sys2Proof/Syntax.lean ====
section
/-! DEFINITION. The instructions: one constructor per row of `spec/opcode_table.json` (`30_encoding.md` R52, R62).
An instruction carries the ports its format reads (R53), each whole; the meaning selects the bits it uses. -/

namespace Sys2Proof

/-- The eight operations. Operands: `value` is `CMD.value`, `len` and `chars` are the string operand, `int` is
`CMD.int`. -/
inductive Instr where
  /-- Code 0, format V (`40_codec.md` R88). -/
  | enc (value : Value)
  /-- Code 1, format S (`40_codec.md` R92). -/
  | dec (len : Len) (chars : Chars)
  /-- Code 2, format S (`40_codec.md` R93). -/
  | val (len : Len) (chars : Chars)
  /-- Code 3, format I (`41_integer_packer.md` R111). -/
  | pk64 (int : IntWord)
  /-- Code 4, format V (`41_integer_packer.md` R113). -/
  | up64 (value : Value)
  /-- Code 5, format I (`41_integer_packer.md` R114). -/
  | pk32 (int : IntWord)
  /-- Code 6, format V (`41_integer_packer.md` R115). -/
  | up32 (value : Value)
  /-- Code 7, reserved (`30_encoding.md` R62). -/
  | rsvd7
deriving DecidableEq, Repr

end Sys2Proof
end

