-- ==== Sys2Proof/Syntax/Ports.lean ====
section
/-! DEFINITION. What crosses the ports of the block: a command as `30_encoding.md` R50 lists it, the input
signals of one `clk` edge and the output signals, as R61 lists them. -/

namespace Sys2Proof

/-- A command: one operation code and the operand ports (`30_encoding.md` R50). -/
structure Command where
  op    : OpCode
  value : Value
  len   : Len
  chars : Chars
  int   : IntWord
deriving DecidableEq, Repr

/-- The input signals as one `clk` edge samples them (`30_encoding.md` R61). `cmdChars` is the 176-bit port:
cell `k` stands at bits `[175-8k : 168-8k]`. -/
structure Pins where
  rst      : Bool
  cmdValid : Bool
  cmdOp    : OpCode
  cmdValue : Value
  cmdLen   : Len
  cmdChars : BitVec 176
  cmdInt   : IntWord
deriving DecidableEq, Repr

/-- The output signals (`30_encoding.md` R61). -/
structure Outputs where
  rspDone   : Bool
  rspStatus : StatusCode
  rspValue  : Value
  rspLen    : Len
  rspChars  : BitVec 176
  rspInt    : IntWord
deriving DecidableEq, Repr

end Sys2Proof
end

