-- ==== Sys2Proof/Decode.lean ====
section
/-! DEFINITION. Decoding and encoding. `CMD.op` alone selects the operation and all eight codes have a meaning
(`30_encoding.md` R51), so `decode` is total on commands. A command written as one number is a convenience of the
model (DESIGN CHOICE, log 3): bits 2..0 are the operation code, as `spec/opcode_table.json` numbers them, and the
operand ports follow in the order of R50. A number with a bit beyond the command's 379 is rejected by name. -/

namespace Sys2Proof

/-- The operation code of an instruction (`30_encoding.md` R52, R62). -/
def Instr.opcode : Instr → OpCode
  | .enc _ => 0b000#3
  | .dec _ _ => 0b001#3
  | .val _ _ => 0b010#3
  | .pk64 _ => 0b011#3
  | .up64 _ => 0b100#3
  | .pk32 _ => 0b101#3
  | .up32 _ => 0b110#3
  | .rsvd7 => 0b111#3

/-- The instruction of a command (`30_encoding.md` R51, R52, R53, R62). A port the operation does not read is
dropped here (R54). -/
def decode (c : Command) : Instr :=
  match c.op with
  | 0b000#3 => .enc c.value
  | 0b001#3 => .dec c.len c.chars
  | 0b010#3 => .val c.len c.chars
  | 0b011#3 => .pk64 c.int
  | 0b100#3 => .up64 c.value
  | 0b101#3 => .pk32 c.int
  | 0b110#3 => .up32 c.value
  | 0b111#3 => .rsvd7

/-- Cell `k` of the 176-bit character port is bits `[175-8k : 168-8k]` (`30_encoding.md` R61). -/
def unpackChars (p : BitVec 176) : Chars :=
  Vector.ofFn fun k => p.extractLsb' (168 - 8 * k.val) 8

/-- The 176-bit character port that shows these cells, cell 0 in the most significant bits (`30_encoding.md`
R61). -/
def packChars (s : Chars) : BitVec 176 :=
  s[0] ++ s[1] ++ s[2] ++ s[3] ++ s[4] ++ s[5] ++ s[6] ++ s[7] ++ s[8] ++ s[9] ++ s[10] ++
    s[11] ++ s[12] ++ s[13] ++ s[14] ++ s[15] ++ s[16] ++ s[17] ++ s[18] ++ s[19] ++ s[20] ++ s[21]

/-- The command on the input signals of an edge (`30_encoding.md` R50, R61). -/
def Pins.command (p : Pins) : Command where
  op    := p.cmdOp
  value := p.cmdValue
  len   := p.cmdLen
  chars := unpackChars p.cmdChars
  int   := p.cmdInt

/-- The input signals by which the host presents a command: `cmd_valid = 1`, `rst = 0` (`30_encoding.md` R61). -/
def Command.pins (c : Command) : Pins where
  rst      := false
  cmdValid := true
  cmdOp    := c.op
  cmdValue := c.value
  cmdLen   := c.len
  cmdChars := packChars c.chars
  cmdInt   := c.int

/-- The command whose bits, numbered from bit 0 up, are those of `w`: `op` at bits 2..0, `value` at 130..3, `len` at
138..131, the character port at 314..139, `int` at 378..315 (DESIGN CHOICE, log 3). -/
def Command.ofNat (w : Nat) : Command where
  op    := BitVec.ofNat 3 w
  value := BitVec.ofNat 128 (w >>> 3)
  len   := BitVec.ofNat 8 (w >>> 131)
  chars := unpackChars (BitVec.ofNat 176 (w >>> 139))
  int   := BitVec.ofNat 64 (w >>> 315)

/-- The 379 bits of a command, laid out as `Command.ofNat` reads them. -/
def Command.toWord (c : Command) : BitVec 379 :=
  c.int ++ packChars c.chars ++ c.len ++ c.value ++ c.op

/-- Why a number is no command. -/
inductive DecodeError where
  /-- A bit at or above 379 is set: a command has 379 bits and one length (`30_encoding.md` R50). -/
  | beyondCommand
deriving DecidableEq, Repr

/-- The instruction of a command written as a number of any size. -/
def decodeNat (w : Nat) : Except DecodeError Instr :=
  if w >>> Config.commandBits = 0 then .ok (decode (Command.ofNat w))
  else .error .beyondCommand

/-- The command number an opcode-table word of `nbits` bits stands for: every bit above them is 0. -/
def tableWord (nbits w : Nat) : Nat := w % 2 ^ nbits

/-- The instruction the decoder reads from an opcode-table word. -/
def decodeTableWord (nbits w : Nat) : Option Instr :=
  match decodeNat (tableWord nbits w) with
  | .ok i => some i
  | .error _ => none

/-- The 22 cells of 0x00 that fill an unread character port (`30_encoding.md` R65). -/
def zeroChars : Chars := Vector.replicate 22 0#8

/-- The command of an instruction. The code is R52's; a port the operation does not read is zero (`30_encoding.md`
R54, R65). -/
def encode (i : Instr) : Command :=
  match i with
  | .enc v => ⟨0b000#3, v, 0, zeroChars, 0⟩
  | .dec n s => ⟨0b001#3, 0, n, s, 0⟩
  | .val n s => ⟨0b010#3, 0, n, s, 0⟩
  | .pk64 n => ⟨0b011#3, 0, 0, zeroChars, n⟩
  | .up64 v => ⟨0b100#3, v, 0, zeroChars, 0⟩
  | .pk32 n => ⟨0b101#3, 0, 0, zeroChars, n⟩
  | .up32 v => ⟨0b110#3, v, 0, zeroChars, 0⟩
  | .rsvd7 => ⟨0b111#3, 0, 0, zeroChars, 0⟩

/-- The command of an instruction, as one number. -/
def encodeWord (i : Instr) : BitVec 379 := (encode i).toWord

end Sys2Proof
end

