-- ==== Sys2Proof/Machine/Operands.lean ====
section
/-! DEFINITION. The operand forms: a value as bytes and leading fields, a cell as a base-64 digit, the integers of
the two widths. -/

namespace Sys2Proof.Machine

/-! ## The value operand -/

/-- `byte[i]` is bits `[127-8i : 120-8i]` (`20_memory.md` R31). -/
def bytesOf (v : Value) : Bytes :=
  Vector.ofFn fun i => v.extractLsb' (120 - 8 * i.val) 8

/-- The 128-bit vector of 16 bytes, `byte[0]` most significant (`20_memory.md` R31). -/
def valueOf (b : Bytes) : Value :=
  b[0] ++ b[1] ++ b[2] ++ b[3] ++ b[4] ++ b[5] ++ b[6] ++ b[7] ++
    b[8] ++ b[9] ++ b[10] ++ b[11] ++ b[12] ++ b[13] ++ b[14] ++ b[15]

/-- `F0`: bytes 0 to 3, most significant byte first (`20_memory.md` R32). -/
def field0 (b : Bytes) : Nat :=
  b[0].toNat * 16777216 + b[1].toNat * 65536 + b[2].toNat * 256 + b[3].toNat

/-- `F1`: bytes 4 and 5 (`20_memory.md` R32). -/
def field1 (b : Bytes) : Nat := b[4].toNat * 256 + b[5].toNat

/-- `F2`: bytes 6 and 7 (`20_memory.md` R32). -/
def field2 (b : Bytes) : Nat := b[6].toNat * 256 + b[7].toNat

/-- `CMD.value[63:0]`, `byte[8] .. byte[15]` (`30_encoding.md` R58). -/
def low64 (v : Value) : IntWord := v.extractLsb' 0 64

/-- `CMD.value[31:0]`, `byte[12] .. byte[15]` (`30_encoding.md` R58). -/
def low32 (v : Value) : BitVec 32 := v.extractLsb' 0 32

/-! ## The integer operand -/

/-- The 32-bit operand of PK32: `CMD.int[31:0]` (`30_encoding.md` R57). -/
def int32 (n : IntWord) : BitVec 32 := n.extractLsb' 0 32

/-- `sext_64` of a 32-bit integer (`00_scope.md` R6; two's complement, log 8). -/
def sext64 (n : BitVec 32) : IntWord := n.signExtend 64

/-- `zext_128` of a 64-bit pattern: the layout of a packed integer (`41_integer_packer.md` R110). -/
def zext128 (n : IntWord) : Value := n.setWidth 128

/-! ## The alphabet -/

/-- The 64 cell codes of `ALPHA`, in the order of their digit values (`40_codec.md` R80; the codes are ASCII,
log 7). -/
def alphabet : Vector Cell 64 :=
  ((#v[0x30, 0x31, 0x32, 0x33, 0x34, 0x35, 0x36, 0x37, 0x38, 0x39] : Vector Cell 10) ++
   (#v[0x41, 0x42, 0x43, 0x44, 0x45, 0x46, 0x47, 0x48, 0x49, 0x4A, 0x4B, 0x4C, 0x4D,
       0x4E, 0x4F, 0x50, 0x51, 0x52, 0x53, 0x54, 0x55, 0x56, 0x57, 0x58, 0x59, 0x5A] : Vector Cell 26) ++
   (#v[0x61, 0x62, 0x63, 0x64, 0x65, 0x66, 0x67, 0x68, 0x69, 0x6A, 0x6B, 0x6C, 0x6D,
       0x6E, 0x6F, 0x70, 0x71, 0x72, 0x73, 0x74, 0x75, 0x76, 0x77, 0x78, 0x79, 0x7A] : Vector Cell 26) ++
   (#v[0x5F, 0x24] : Vector Cell 2) : Vector Cell (10 + 26 + 26 + 2))

/-- `ALPHA[d]`, the forward look-up (`20_memory.md` R30). -/
def alpha (d : Digit) : Cell := alphabet[d]

/-- `INDEX(c)`, the reverse look-up, by ranges of codes (`40_codec.md` R81). -/
def index (c : Cell) : Option Digit :=
  if 0x30 ≤ c.toNat ∧ c.toNat ≤ 0x39 then some (Fin.ofNat 64 (c.toNat - 0x30))
  else if 0x41 ≤ c.toNat ∧ c.toNat ≤ 0x5A then some (Fin.ofNat 64 (c.toNat - 0x41 + 10))
  else if 0x61 ≤ c.toNat ∧ c.toNat ≤ 0x7A then some (Fin.ofNat 64 (c.toNat - 0x61 + 36))
  else if c.toNat = 0x5F then some 62
  else if c.toNat = 0x24 then some 63
  else none

/-! ## The string operand -/

/-- The digits of the 22 cells, or none when a cell is not in the alphabet (`40_codec.md` R91, test 2). -/
def digits (s : Chars) : Option Digits :=
  if h : ∀ k : Fin 22, (index s[k]).isSome then some (Vector.ofFn fun k => (index s[k]).get (h k))
  else none

end Sys2Proof.Machine
end

