-- ==== Sys2Proof/Machine/State.lean ====
section
/-! DEFINITION. The state of the block: the response latch, the only architectural state (`10_state.md` R12), and
the input signals the host will show at the coming edges, which are the model's own field (log 1). -/

namespace Sys2Proof.Machine

/-- The outcomes a response can report (`60_exceptions.md` R150). Code 6 has no name. -/
inductive Status where
  | ok
  | invalidLength
  | invalidCharacter
  | outOfRange
  | invalidValue
  /-- Kept for adapters in the host; the block never writes it. -/
  | parseFailure
  | illegalOp
deriving DecidableEq, Repr

/-- The response latch `RSP` (`10_state.md` R12). -/
structure Rsp where
  /-- A command has completed since reset. -/
  done   : Bool
  status : StatusCode
  /-- Value result. -/
  rv     : Value
  /-- Length of the string result. -/
  rsLen  : Len
  /-- String result, cell 0 the first character. -/
  rs     : Chars
  /-- Integer result. -/
  ri     : IntWord
deriving DecidableEq, Repr

/-- The state. -/
structure State where
  rsp    : Rsp
  /-- What the input signals show at the coming `clk` edges, the next edge first. Not state of the block: the
  host's choice, held here because the interface's step takes the state alone (log 1). -/
  inputs : List Pins
deriving DecidableEq, Repr

/-- What stops the machine: nothing. The block has no trap (`60_exceptions.md` R159) and never halts, hangs or
refuses a command (`70_reset_and_hazards.md` R187); an error is a status in the latch. -/
inductive Fault where
deriving DecidableEq, Repr

/-- Why an instruction has no meaning. -/
inductive Refusal where
  /-- An arm of `exec` not modelled. No arm answers it: all eight codes have their meaning. It would be safe. -/
  | notModelled (mnemonic : String)
deriving DecidableEq, Repr

/-- The latch after reset (`10_state.md` R12, R21). -/
def Rsp.reset : Rsp where
  done   := false
  status := 0#3
  rv     := 0#128
  rsLen  := 0#8
  rs     := Vector.replicate 22 0#8
  ri     := 0#64

/-- The machine right after reset (`10_state.md` R21). No host input is pending (DESIGN CHOICE, log 1). -/
def State.reset : State where
  rsp    := Rsp.reset
  inputs := []

end Sys2Proof.Machine
end

