-- ==== Sys2Proof/Machine/Flags.lean ====
section
/-! DEFINITION. How a status comes about. The block has no condition flag; `RSP.STATUS` is the nearest thing
(`10_state.md` R17). -/

namespace Sys2Proof.Machine

/-- The number of a status (`60_exceptions.md` R150). -/
def Status.code : Status → StatusCode
  | .ok => 0b000#3
  | .invalidLength => 0b001#3
  | .invalidCharacter => 0b010#3
  | .outOfRange => 0b011#3
  | .invalidValue => 0b100#3
  | .parseFailure => 0b101#3
  | .illegalOp => 0b111#3

/-- The three tests of a string operand, in order (`40_codec.md` R91; priority `60_exceptions.md` R157). It answers
the digits of a valid compact string, or the error of the first test that fails. -/
def readString (len : Len) (s : Chars) : Except Status Digits :=
  if len.toNat ≠ Config.strLen then .error .invalidLength
  else
    match digits s with
    | none => .error .invalidCharacter
    | some d => if 3 < d[0].val then .error .outOfRange else .ok d

/-- `Check(len, chars)` (`40_codec.md` R91). -/
def check (len : Len) (s : Chars) : Status :=
  match readString len s with
  | .error e => e
  | .ok _ => .ok

/-- The encoder's one guard: the nil value is refused (`40_codec.md` R86) and nothing else is (R87). -/
def isNil (v : Value) : Bool := v == 0#128

end Sys2Proof.Machine
end

