-- ==== Sys2Proof/Machine/Ops.lean ====
section
/-! DEFINITION. The operations on the latch and on the ports. A command writes every field of the latch
(`10_state.md` R12), so there is one write, `respond`, and `raise` and the forms of `done` are what
`00_scope.md` R7 says they are. There is no exception entry and no return from one (`60_exceptions.md` R159, R160):
`raise` is the whole of an error. -/

namespace Sys2Proof.Machine

/-- Put a response in the latch. `DONE` is set by every command (`10_state.md` R12, R17). -/
def respond (st : Status) (rv : Value) (rsLen : Len) (rs : Chars) (ri : IntWord) (s : State) : State :=
  { s with rsp := { done := true, status := st.code, rv := rv, rsLen := rsLen, rs := rs, ri := ri } }

/-- `raise <Error>`: the status and nothing else; every result is zero (`00_scope.md` R7, `60_exceptions.md`
R155). -/
def raise (e : Status) (s : State) : State := respond e 0 0 zeroChars 0 s

/-- `done()`: complete `OK` with no result (`00_scope.md` R7). -/
def doneEmpty (s : State) : State := respond .ok 0 0 zeroChars 0 s

/-- `done(RSP.RV <- v)` (`30_encoding.md` R60). -/
def doneValue (v : Value) (s : State) : State := respond .ok v 0 zeroChars 0 s

/-- `done(RSP.RS_LEN <- 22, RSP.RS[k] <- rs[k])` (`30_encoding.md` R60). -/
def doneString (rs : Chars) (s : State) : State := respond .ok 0 22 rs 0 s

/-- `done(RSP.RI <- n)` (`30_encoding.md` R60). -/
def doneInt (n : IntWord) (s : State) : State := respond .ok 0 0 zeroChars n s

/-- What a reset does to the latch: every field takes its reset value (`70_reset_and_hazards.md` R180). -/
def resetLatch (s : State) : State := { s with rsp := Rsp.reset }

/-- What the input signals ask for at an edge. -/
inductive Request where
  /-- `rst = 1`: reset, whatever else is presented (`70_reset_and_hazards.md` R180). -/
  | reset
  /-- `rst = 0`, `cmd_valid = 1`: one command (`30_encoding.md` R61). -/
  | command (c : Command)
  /-- `rst = 0`, `cmd_valid = 0`: nothing (`30_encoding.md` R61). -/
  | idle
deriving DecidableEq, Repr

/-- What the signals of an edge ask for (`30_encoding.md` R61, `70_reset_and_hazards.md` R180). -/
def requestOf (p : Pins) : Request :=
  if p.rst then .reset else if p.cmdValid then .command p.command else .idle

/-- What the coming edge asks for, and the state with that edge's inputs taken. Where the host shows nothing more
the edge is idle (log 2). -/
def sample (s : State) : Request × State :=
  match s.inputs with
  | [] => (.idle, s)
  | p :: rest => (requestOf p, { s with inputs := rest })

/-- The host shows these signals at the coming edge. -/
def State.showPins (p : Pins) (s : State) : State := { s with inputs := p :: s.inputs }

/-- The host presents a command at the coming edge. -/
def State.present (c : Command) (s : State) : State := s.showPins c.pins

/-- Signals that assert reset; the command ports are as they may be (`70_reset_and_hazards.md` R180). -/
def resetPins : Pins := ⟨true, false, 0, 0, 0, 0, 0⟩

/-- The output signals show the latch, and reading them changes nothing (`30_encoding.md` R61). -/
def outputs (s : State) : Outputs where
  rspDone   := s.rsp.done
  rspStatus := s.rsp.status
  rspValue  := s.rsp.rv
  rspLen    := s.rsp.rsLen
  rspChars  := packChars s.rsp.rs
  rspInt    := s.rsp.ri

end Sys2Proof.Machine
end

