-- ==== Sys2Proof/Machine/Codec.lean ====
section
/-! DEFINITION. The compact-string codec: ENC, DEC, VAL (`40_codec.md`). The arithmetic is on natural numbers, as
R97 allows. -/

namespace Sys2Proof.Machine

/-- The six digit groups `num[0..5]` (`40_codec.md` R82). -/
structure Groups where
  num0 : Nat
  num1 : Nat
  num2 : Nat
  num3 : Nat
  num4 : Nat
  num5 : Nat
deriving DecidableEq, Repr

/-- `Split(byte[0..15])` (`40_codec.md` R85). -/
def split (b : Bytes) : Groups where
  num0 := field0 b / 16777216
  num1 := field0 b % 16777216
  num2 := field1 b * 256 + field2 b / 256
  num3 := (field2 b % 256) * 65536 + b[8].toNat * 256 + b[9].toNat
  num4 := b[10].toNat * 65536 + b[11].toNat * 256 + b[12].toNat
  num5 := b[13].toNat * 65536 + b[14].toNat * 256 + b[15].toNat

/-- `Join(num[0..5])` (`40_codec.md` R90). -/
def join (g : Groups) : Bytes :=
  let f0 := g.num0 * 16777216 + g.num1
  let f1 := g.num2 / 256
  let f2 := (g.num2 % 256) * 256 + g.num3 / 65536
  #v[BitVec.ofNat 8 (f0 / 16777216), BitVec.ofNat 8 (f0 / 65536 % 256),
     BitVec.ofNat 8 (f0 / 256 % 256), BitVec.ofNat 8 (f0 % 256),
     BitVec.ofNat 8 (f1 / 256), BitVec.ofNat 8 (f1 % 256),
     BitVec.ofNat 8 (f2 / 256), BitVec.ofNat 8 (f2 % 256),
     BitVec.ofNat 8 (g.num3 / 256 % 256), BitVec.ofNat 8 (g.num3 % 256),
     BitVec.ofNat 8 (g.num4 / 65536), BitVec.ofNat 8 (g.num4 / 256 % 256), BitVec.ofNat 8 (g.num4 % 256),
     BitVec.ofNat 8 (g.num5 / 65536), BitVec.ofNat 8 (g.num5 / 256 % 256), BitVec.ofNat 8 (g.num5 % 256)]

/-- `Render(n, w)`: character `j` is `ALPHA[(n div 64^(w-1-j)) mod 64]` (`40_codec.md` R83). -/
def render (n w : Nat) : Vector Cell w :=
  Vector.ofFn fun j => alpha (Fin.ofNat Config.radix (n / Config.radix ^ (w - 1 - j.val)))

/-- `Fold`: the number that digits spell, most significant first (`40_codec.md` R89). -/
def fold (d : List Digit) : Nat := d.foldl (fun n x => n * Config.radix + x.val) 0

/-- The compact string of six groups, of widths 2, 4, 4, 4, 4, 4 (`40_codec.md` R82, R88). -/
def renderGroups (g : Groups) : Chars :=
  (render g.num0 2 ++ render g.num1 4 ++ render g.num2 4 ++ render g.num3 4 ++ render g.num4 4 ++
    render g.num5 4 : Vector Cell (2 + 4 + 4 + 4 + 4 + 4))

/-- The six groups of a compact string's digits (`40_codec.md` R92). -/
def foldGroups (d : Digits) : Groups where
  num0 := fold [d[0], d[1]]
  num1 := fold [d[2], d[3], d[4], d[5]]
  num2 := fold [d[6], d[7], d[8], d[9]]
  num3 := fold [d[10], d[11], d[12], d[13]]
  num4 := fold [d[14], d[15], d[16], d[17]]
  num5 := fold [d[18], d[19], d[20], d[21]]

/-- The compact string of a value (`40_codec.md` R88). -/
def compactString (v : Value) : Chars := renderGroups (split (bytesOf v))

/-- The value of a compact string's digits (`40_codec.md` R92). -/
def valueOfDigits (d : Digits) : Value := valueOf (join (foldGroups d))

/-- ENC (`40_codec.md` R88). -/
def execEnc (v : Value) (s : State) : Host.Outcome State Fault Refusal :=
  if isNil v then .next (raise .invalidValue s) else .next (doneString (compactString v) s)

/-- DEC (`40_codec.md` R92). -/
def execDec (len : Len) (chars : Chars) (s : State) : Host.Outcome State Fault Refusal :=
  match readString len chars with
  | .error e => .next (raise e s)
  | .ok d => .next (doneValue (valueOfDigits d) s)

/-- VAL (`40_codec.md` R93). -/
def execVal (len : Len) (chars : Chars) (s : State) : Host.Outcome State Fault Refusal :=
  match readString len chars with
  | .error e => .next (raise e s)
  | .ok _ => .next (doneEmpty s)

end Sys2Proof.Machine
end

