-- ==== Sys2Proof/Machine/Packer.lean ====
section
/-! DEFINITION. The integer packer: PK64, UP64, PK32, UP32 (`41_integer_packer.md`). None of them reports an error;
the integer zero is packed like any other (R112). -/

namespace Sys2Proof.Machine

/-- PK64 (`41_integer_packer.md` R111). -/
def execPk64 (n : IntWord) (s : State) : Host.Outcome State Fault Refusal :=
  .next (doneValue (zext128 n) s)

/-- UP64 (`41_integer_packer.md` R113). -/
def execUp64 (v : Value) (s : State) : Host.Outcome State Fault Refusal :=
  .next (doneInt (low64 v) s)

/-- PK32: sign-extend, then as PK64 (`41_integer_packer.md` R114). -/
def execPk32 (n : IntWord) (s : State) : Host.Outcome State Fault Refusal :=
  .next (doneValue (zext128 (sext64 (int32 n))) s)

/-- UP32: the low 32 bits, sign-extended (`41_integer_packer.md` R115; `93_implementation_defined.md` U5). -/
def execUp32 (v : Value) (s : State) : Host.Outcome State Fault Refusal :=
  .next (doneInt (sext64 (low32 v)) s)

end Sys2Proof.Machine
end

