-- ==== Sys2Proof/Machine/Reserved.lean ====
section
/-! DEFINITION. The reserved operation code 7 (`30_encoding.md` R62). -/

namespace Sys2Proof.Machine

/-- Code 7 reads no port and completes with `IllegalOp` (`30_encoding.md` R62). -/
def execRsvd7 (s : State) : Host.Outcome State Fault Refusal :=
  .next (raise .illegalOp s)

end Sys2Proof.Machine
end

