-- ==== Sys2Proof/Machine/Dispatch.lean ====
section
/-! DEFINITION. One arm per operation code (`30_encoding.md` R52, R62). -/

namespace Sys2Proof.Machine

def exec (i : Instr) (s : State) : Host.Outcome State Fault Refusal :=
  match i with
  | .enc value => Sys2Proof.Machine.execEnc value s
  | .dec len chars => Sys2Proof.Machine.execDec len chars s
  | .val len chars => Sys2Proof.Machine.execVal len chars s
  | .pk64 int => Sys2Proof.Machine.execPk64 int s
  | .up64 value => Sys2Proof.Machine.execUp64 value s
  | .pk32 int => Sys2Proof.Machine.execPk32 int s
  | .up32 value => Sys2Proof.Machine.execUp32 value s
  | .rsvd7 => Sys2Proof.Machine.execRsvd7 s

end Sys2Proof.Machine
end

