-- ==== Sys2Proof/Machine/Step.lean ====
section
/-! DEFINITION. One step: one `clk` edge (`30_encoding.md` R61). -/

namespace Sys2Proof.Machine

/-- At an edge the block is reset, executes the command presented, or keeps its latch (`30_encoding.md` R61,
`70_reset_and_hazards.md` R180). -/
def step (s : State) : Host.Outcome State Fault Refusal :=
  match sample s with
  | (.reset, t) => .next (resetLatch t)
  | (.command c, t) => exec (decode c) t
  | (.idle, t) => .next t

/-- The host presents, at the coming edge, the command an opcode-table word stands for (log 4). -/
def State.withFetchWord (s : State) (nbits w : Nat) : State :=
  s.present (Command.ofNat (tableWord nbits w))

end Sys2Proof.Machine
end

