-- ==== Sys2Proof/Syntax/HostScript.lean ====
section
/-! DEFINITION. The host script of `30_encoding.md` R65 and R66 as data: one line per command, an operand written
out or copied from the latch. How the characters of a script's text are read into this form is not modelled
(log 12). -/

namespace Sys2Proof.Script

/-- A canonical UUID text without its hyphens: five groups of 8, 4, 4, 4 and 12 hex digits, left to right
(`20_memory.md` R33). -/
structure UuidText where
  group0 : Vector Nibble 8
  group1 : Vector Nibble 4
  group2 : Vector Nibble 4
  group3 : Vector Nibble 4
  group4 : Vector Nibble 12
deriving DecidableEq, Repr

/-- The operand of `ENC`, `UP64`, `UP32`: `v=<value>`. -/
inductive ValueArg where
  /-- `0x` followed by hex digits, most significant first; a well-formed one has exactly 32. -/
  | hex (digits : List Nibble)
  /-- A canonical UUID text. -/
  | uuid (text : UuidText)
  /-- The word `RV`: the host copies `RSP.RV` onto `CMD.value`. -/
  | rv
deriving DecidableEq, Repr

/-- The operand of `DEC`, `VAL`: `s=<string>`. -/
inductive StringArg where
  /-- A double-quoted sequence of characters of any length. -/
  | quoted (cells : List Cell)
  /-- The word `RS`: the host copies `RSP.RS_LEN` and `RSP.RS` onto `CMD.len` and `CMD.chars`. -/
  | rs
deriving DecidableEq, Repr

/-- The operand of `PK64`, `PK32`: `n=<integer>`. -/
inductive IntArg where
  /-- A decimal number with an optional `-`. -/
  | decimal (n : Int)
  /-- `0x` and 1 to 16 hex digits, the bit pattern. -/
  | hex (digits : List Nibble)
  /-- The word `RI`: the host copies `RSP.RI` onto `CMD.int`. -/
  | ri
deriving DecidableEq, Repr

/-- A line of a script: a mnemonic and one operand (`30_encoding.md` R65). -/
inductive Line where
  | enc (v : ValueArg)
  | dec (s : StringArg)
  | val (s : StringArg)
  | pk64 (n : IntArg)
  | up64 (v : ValueArg)
  | pk32 (n : IntArg)
  | up32 (v : ValueArg)
  | rsvd7
deriving DecidableEq, Repr

/-- The five pseudo-instructions (`30_encoding.md` R66). -/
inductive Pseudo where
  | enci64 (n : IntArg)
  | enci32 (n : IntArg)
  | deci64 (s : StringArg)
  | deci32 (s : StringArg)
  | rtrip (v : ValueArg)
deriving DecidableEq, Repr

/-- One item of a script. -/
inductive Item where
  | line (l : Line)
  | pseudo (p : Pseudo)
  /-- The host asserts reset (`95_test_vectors.md` P6). -/
  | reset
deriving DecidableEq, Repr

end Sys2Proof.Script
end

