-- ==== Sys2Proof/WellFormed.lean ====
section
/-! DEFINITION. Well-formed terms.
An instruction has nothing to check: every bit pattern of every operand port is legal (`30_encoding.md` R63) and the
types carry the widths. A line of host script has: the digits and ranges of R65. -/

namespace Sys2Proof

/-- `30_encoding.md` R63: "Operand ports have no reserved values". One arm per constructor, so that an instruction
added later states its own check. -/
def Instr.wellFormed : Instr → Bool
  | .enc _ => true
  | .dec _ _ => true
  | .val _ _ => true
  | .pk64 _ => true
  | .up64 _ => true
  | .pk32 _ => true
  | .up32 _ => true
  | .rsvd7 => true

namespace Script

/-- The number that hex digits spell, most significant first. -/
def hexNat (digits : List Nibble) : Nat :=
  digits.foldl (fun n d => n * 16 + d.toNat) 0

/-- `0x` "followed by exactly 32 hex digits" (`30_encoding.md` R65). -/
def ValueArg.wellFormed : ValueArg → Bool
  | .hex digits => digits.length == 32
  | .uuid _ => true
  | .rv => true

/-- A quoted string has "any length 0 or more" (`30_encoding.md` R65). -/
def StringArg.wellFormed : StringArg → Bool
  | .quoted _ => true
  | .rs => true

/-- An integer "in the range of the operation" of `bits` bits: a decimal number in the signed range, a pattern of 1
to 16 hex digits that fits the bits (`30_encoding.md` R65; the range of a pattern is DEDUCED, log 11). -/
def IntArg.wellFormed (bits : Nat) : IntArg → Bool
  | .decimal n => decide (-(2 : Int) ^ (bits - 1) ≤ n ∧ n < (2 : Int) ^ (bits - 1))
  | .hex digits => decide (1 ≤ digits.length ∧ digits.length ≤ 16 ∧ hexNat digits < 2 ^ bits)
  | .ri => true

/-- `30_encoding.md` R65: 64-bit signed for PK64, 32-bit signed for PK32. -/
def Line.wellFormed : Line → Bool
  | .enc v => v.wellFormed
  | .dec s => s.wellFormed
  | .val s => s.wellFormed
  | .pk64 n => n.wellFormed 64
  | .up64 v => v.wellFormed
  | .pk32 n => n.wellFormed 32
  | .up32 v => v.wellFormed
  | .rsvd7 => true

/-- A pseudo-instruction is well formed when its operand is, for the operation it goes to (`30_encoding.md` R66). -/
def Pseudo.wellFormed : Pseudo → Bool
  | .enci64 n => n.wellFormed 64
  | .enci32 n => n.wellFormed 32
  | .deci64 s => s.wellFormed
  | .deci32 s => s.wellFormed
  | .rtrip v => v.wellFormed

def Item.wellFormed : Item → Bool
  | .line l => l.wellFormed
  | .pseudo p => p.wellFormed
  | .reset => true

end Script

end Sys2Proof
end

