-- ==== Sys2Proof/Machine/HostScript.lean ====
section
/-! DEFINITION. What the host does with a script: how a line becomes a command (`30_encoding.md` R65), how a
pseudo-instruction expands and where its sequence stops (R66). The block itself is only ever reached through
`step`. -/

namespace Sys2Proof.Script

open Sys2Proof.Machine

/-- The byte of two hex digits, the left one the high nibble (`20_memory.md` R33). -/
def byteOf (high low : Nibble) : Byte := high ++ low

/-- The 32 hex digits of a canonical text, left to right (`20_memory.md` R33). -/
def UuidText.digits (t : UuidText) : Vector Nibble 32 :=
  (t.group0 ++ t.group1 ++ t.group2 ++ t.group3 ++ t.group4 : Vector Nibble (8 + 4 + 4 + 4 + 12))

/-- Hex digits `2k` and `2k+1` are the nibbles of `byte[k]` (`20_memory.md` R33). -/
def UuidText.bytes (t : UuidText) : Bytes :=
  Vector.ofFn fun k => byteOf (t.digits[2 * k.val]) (t.digits[2 * k.val + 1])

/-- The bits a value operand puts on `CMD.value`; `r` is the latch when the line is reached (`30_encoding.md`
R65). -/
def ValueArg.assemble (r : Rsp) : ValueArg → Value
  | .hex digits => BitVec.ofNat 128 (hexNat digits)
  | .uuid t => valueOf t.bytes
  | .rv => r.rv

/-- `CMD.len` of a quoted string: its length, 255 if longer than 254 (`30_encoding.md` R55, R65). -/
def quotedLen (cells : List Cell) : Len := BitVec.ofNat 8 (min cells.length Config.lenLimit)

/-- `CMD.chars` of a quoted string: its first 22 cells, zero beyond its end (`30_encoding.md` R65). -/
def quotedChars (cells : List Cell) : Chars := Vector.ofFn fun k => cells.getD k.val 0

/-- What a string operand puts on `CMD.len` and `CMD.chars` (`30_encoding.md` R65). -/
def StringArg.assemble (r : Rsp) : StringArg → Len × Chars
  | .quoted cells => (quotedLen cells, quotedChars cells)
  | .rs => (r.rsLen, r.rs)

/-- What an integer operand puts on `CMD.int` for PK64: `unsigned_64(n)` (`30_encoding.md` R65). -/
def IntArg.assemble64 (r : Rsp) : IntArg → IntWord
  | .decimal n => BitVec.ofInt 64 n
  | .hex digits => BitVec.ofNat 64 (hexNat digits)
  | .ri => r.ri

/-- What an integer operand puts on `CMD.int` for PK32: `unsigned_32(n)` in the low half, zero in the high half;
the word `RI` copies all of `RSP.RI` (`30_encoding.md` R65). -/
def IntArg.assemble32 (r : Rsp) : IntArg → IntWord
  | .decimal n => (BitVec.ofInt 32 n).setWidth 64
  | .hex digits => (BitVec.ofNat 32 (hexNat digits)).setWidth 64
  | .ri => r.ri

/-- The instruction of a line, its operand resolved against the latch. -/
def Line.instr (r : Rsp) : Line → Instr
  | .enc v => .enc (v.assemble r)
  | .dec s => .dec (s.assemble r).1 (s.assemble r).2
  | .val s => .val (s.assemble r).1 (s.assemble r).2
  | .pk64 n => .pk64 (n.assemble64 r)
  | .up64 v => .up64 (v.assemble r)
  | .pk32 n => .pk32 (n.assemble32 r)
  | .up32 v => .up32 (v.assemble r)
  | .rsvd7 => .rsvd7

/-- The assembled form of a line: the command tuple, with the ports the operation does not read driven to zero
(`30_encoding.md` R65). -/
def Line.assemble (r : Rsp) (l : Line) : Command := encode (l.instr r)

/-- The host reaches a line: it presents the assembled command and the block takes its edge. -/
def runLine (l : Line) (s : State) : Host.Outcome State Fault Refusal :=
  step (s.present (l.assemble s.rsp))

/-- A sequence that "stops at the first command whose status is not `OK`, leaving that command's response in the
latch" (`30_encoding.md` R66). -/
def runUntilError : List Line → State → Host.Outcome State Fault Refusal
  | [], s => .next s
  | l :: rest, s =>
    match runLine l s with
    | .next t => if t.rsp.status = Status.ok.code then runUntilError rest t else .next t
    | .fault f => .fault f
    | .refused r => .refused r

/-- The expansions of the pseudo-instructions (`30_encoding.md` R66). -/
def Pseudo.expand : Pseudo → List Line
  | .enci64 n => [.pk64 n, .enc .rv]
  | .enci32 n => [.pk32 n, .enc .rv]
  | .deci64 s => [.dec s, .up64 .rv]
  | .deci32 s => [.dec s, .up32 .rv]
  | .rtrip v => [.enc v, .dec .rs]

/-- One item of a script. -/
def runItem (i : Item) (s : State) : Host.Outcome State Fault Refusal :=
  match i with
  | .line l => runLine l s
  | .pseudo p => runUntilError p.expand s
  | .reset => step (s.showPins resetPins)

/-- A script, item by item. An error ends the sequence of the pseudo-instruction it occurs in and nothing more
(`95_test_vectors.md` P4; log 12). -/
def run : List Item → State → Host.Outcome State Fault Refusal
  | [], s => .next s
  | i :: rest, s =>
    match runItem i s with
    | .next t => run rest t
    | .fault f => .fault f
    | .refused r => .refused r

end Sys2Proof.Script
end

