-- ==== Sys2Proof/Safety.lean ====
section
/-! DEFINITION. The terms the claims are made in: what a valid string is, what a well-formed latch is, which ports
an operation reads, how an operation may end. -/

namespace Sys2Proof

open Sys2Proof.Machine

/-- A valid compact string: length 22, every cell in the alphabet, the first digit at most 3 (`40_codec.md` R84). -/
abbrev validString (len : Len) (s : Chars) : Prop :=
  len.toNat = 22 ∧ (∀ k : Fin 22, index s[k] ≠ none) ∧ ∀ d, index s[0] = some d → d.val ≤ 3

/-- The string of twenty-two `0`. -/
def allZeroString : Chars := Vector.replicate 22 0x30#8

/-- The ranges of the six digit groups (`40_codec.md` R82). -/
abbrev groupsInRange (g : Groups) : Prop :=
  g.num0 ≤ 255 ∧ g.num1 ≤ 16777215 ∧ g.num2 ≤ 16777215 ∧ g.num3 ≤ 16777215 ∧ g.num4 ≤ 16777215 ∧
    g.num5 ≤ 16777215

/-- Every result field of a latch is zero (`60_exceptions.md` R155). -/
abbrev noResult (r : Rsp) : Prop :=
  r.rv = 0#128 ∧ r.rsLen = 0#8 ∧ r.rs = zeroChars ∧ r.ri = 0#64

/-- A latch the block can show: it is as reset left it, or it holds a response, whose status is one the block
writes, whose results are zero beside an error, and of whose results at most one is produced, a string result being
a valid compact string (`10_state.md` R12, `60_exceptions.md` R150, R155, `30_encoding.md` R60). -/
abbrev latchWf (r : Rsp) : Prop :=
  (r.done = false → r = Rsp.reset) ∧
  (r.status ≠ Status.parseFailure.code ∧ r.status ≠ 0b110#3) ∧
  (r.status ≠ Status.ok.code → noResult r) ∧
  (r.rsLen = 0#8 ∧ r.rs = zeroChars ∨ validString r.rsLen r.rs ∧ r.rv = 0#128 ∧ r.ri = 0#64) ∧
  (r.rv = 0#128 ∨ r.ri = 0#64)

/-- Two commands agree on everything the operation reads (`30_encoding.md` R53, R58): the string cells count only
when the length is 22, UP64 reads the low 64 bits of the value, UP32 and PK32 the low 32 of theirs. -/
abbrev agreeOnRead (a b : Command) : Prop :=
  a.op = b.op ∧
  (a.op = 0b000#3 → a.value = b.value) ∧
  (a.op = 0b001#3 ∨ a.op = 0b010#3 → a.len = b.len ∧ (a.len = 22#8 → a.chars = b.chars)) ∧
  (a.op = 0b011#3 → a.int = b.int) ∧
  (a.op = 0b100#3 → a.value.extractLsb' 0 64 = b.value.extractLsb' 0 64) ∧
  (a.op = 0b101#3 → a.int.extractLsb' 0 32 = b.int.extractLsb' 0 32) ∧
  (a.op = 0b110#3 → a.value.extractLsb' 0 32 = b.value.extractLsb' 0 32)

/-- The table of `60_exceptions.md` R161: which operation can end with which status. -/
def mayEndWith (op : OpCode) : List Status :=
  match op with
  | 0b000#3 => [.ok, .invalidValue]
  | 0b001#3 => [.ok, .invalidLength, .invalidCharacter, .outOfRange]
  | 0b010#3 => [.ok, .invalidLength, .invalidCharacter, .outOfRange]
  | 0b011#3 => [.ok]
  | 0b100#3 => [.ok]
  | 0b101#3 => [.ok]
  | 0b110#3 => [.ok]
  | 0b111#3 => [.illegalOp]

/-- An edge at which something happens: a reset or a command (`70_reset_and_hazards.md` R187). -/
def isEvent (p : Pins) : Bool := p.rst || p.cmdValid

/-- A safe step: the block answers a next state, as it always does (`70_reset_and_hazards.md` R187). -/
def stepsOn (s : State) : Prop := ∃ t, step s = .next t

end Sys2Proof
end

