-- ==== Sys2Proof/Certificates/Slice0/Obligations.lean ====
section
/-! DEFINITION. The statements for the provers, from the numbered rules of the spec. `exec` has no pending inputs to
care for and returns them untouched; `step` takes one edge's inputs. -/

open Sys2Proof Sys2Proof.Machine Sys2Proof.Script

/-! ## Reset, edges, fetch -/

/-- R21: the latch after reset, and that only `DONE` tells it from an `OK` response with zero results. -/
def Obligations.ResetLatchIsAllZero : Prop :=
  State.reset.rsp.done = false ∧ State.reset.rsp.status = 0#3 ∧ State.reset.rsp.rv = 0#128 ∧
  State.reset.rsp.rsLen = 0#8 ∧ (∀ k : Fin 22, State.reset.rsp.rs[k] = 0x00#8) ∧ State.reset.rsp.ri = 0#64 ∧
  ∀ (len : Len) (chars : Chars) (s : State), validString len chars →
    ∃ t, exec (.val len chars) s = .next t ∧ t.rsp = { State.reset.rsp with done := true }

/-- R180: an edge with reset asserted puts the latch at its reset value whatever state it was in, executes no command
that is presented with it, and leaves the block ready for a command at the next edge. -/
def Obligations.ResetEdgeWipesLatch : Prop :=
  ∀ (s : State) (p : Pins) (rest : List Pins), s.inputs = p :: rest → p.rst = true →
    step s = .next { rsp := State.reset.rsp, inputs := rest } ∧
    ∀ (q : Pins) (rest' : List Pins), rest = q :: rest' → q.rst = false → q.cmdValid = true →
      step { rsp := State.reset.rsp, inputs := rest } =
        exec (decode q.command) { rsp := State.reset.rsp, inputs := rest' }

/-- With `cmd_valid = 0` the latch keeps its content (R61). That an edge for which the host shows nothing is idle
too is the model's choice (log 2). -/
def Obligations.IdleEdgeKeepsLatch : Prop :=
  (∀ (s : State) (p : Pins) (rest : List Pins), s.inputs = p :: rest → p.rst = false → p.cmdValid = false →
    step s = .next { s with inputs := rest }) ∧
  ∀ s : State, s.inputs = [] → step s = .next s

/-- An edge at which a command is presented executes the instruction that command decodes to (R61); the edge's inputs
are taken from the pending ones (log 1). -/
def Obligations.StepRunsPresentedCommand : Prop :=
  ∀ (s : State) (p : Pins) (rest : List Pins), s.inputs = p :: rest → p.rst = false → p.cmdValid = true →
    step s = exec (decode p.command) { s with inputs := rest }

/-- A command presented through its own signals, and an opcode-table word placed for the next edge, run the
instruction they decode to (log 3, log 4). -/
def Obligations.PresentedWordRuns : Prop :=
  (∀ (c : Command) (s : State), step (s.present c) = exec (decode c) s) ∧
  ∀ (s : State) (nbits w : Nat) (i : Instr), decodeTableWord nbits w = some i →
    step (s.withFetchWord nbits w) = exec i s

/-! ## Encoding -/

/-- R51: the operation code alone selects the operation, and every code has one. -/
def Obligations.OpcodeAloneSelectsOperation : Prop :=
  (∀ c : Command, (decode c).opcode = c.op) ∧
  (∀ c c' : Command, c.op = c'.op → (decode c).opcode = (decode c').opcode) ∧
  ∀ op : OpCode, ∃ c : Command, c.op = op ∧ (decode c).opcode = op

/-- Words written out by hand from R50 and R52 (the places of the operand ports are the model's choice, log 3): the
bare codes 7 and 2; `PK64 n=26` is code 3 with 26 from bit 315 up; `UP64 v=5` is code 4 with 5 from bit 3 up. -/
def Obligations.WrittenOutWordsDecode : Prop :=
  decodeTableWord 8 0b111 = some .rsvd7 ∧
  decodeTableWord 8 0b010 = some (.val 0 zeroChars) ∧
  decodeTableWord 384 (26 <<< 315 + 0b011) = some (.pk64 26#64) ∧
  decodeTableWord 384 (5 <<< 3 + 0b100) = some (.up64 5#128) ∧
  decodeTableWord 384 (1 <<< 383 + 0b111) = none

/-- Decoding the encoded instruction gives it back: as a command, through the input signals, and as one number. -/
def Obligations.DecodeOfEncodeIsIdentity : Prop :=
  ∀ i : Instr, i.wellFormed = true →
    decode (encode i) = i ∧ decode (encode i).pins.command = i ∧
    decodeNat (encodeWord i).toNat = .ok i

/-- Encoding the decoded command keeps every port the operation reads, and the number of a command decodes to what the
command decodes to; a number decodes exactly when it has no bit beyond a command's 379 (log 3). -/
def Obligations.EncodeOfDecodeKeepsReadPorts : Prop :=
  (∀ c : Command, agreeOnRead (encode (decode c)) c ∧ decodeNat c.toWord.toNat = .ok (decode c)) ∧
  ∀ w : Nat, (∃ i, decodeNat w = .ok i) ↔ w < 2 ^ 379

/-- R54: two commands that agree on what the operation reads have the same effect from every state; and the assembler
drives the unread ports to zero, as `encode` does. -/
def Obligations.UnreadPortsAreIgnored : Prop :=
  (∀ (a b : Command) (s : State), agreeOnRead a b →
    ∃ t, exec (decode a) s = .next t ∧ exec (decode b) s = .next t) ∧
  ∀ (l : Line) (r : Rsp), encode (decode (l.assemble r)) = l.assemble r

/-- The character ports: cell `k` is bits `[175-8k : 168-8k]`, in and out, and the outputs show the latch (R61). -/
def Obligations.CharacterPortsCarryCells : Prop :=
  (∀ (p : Pins) (k : Fin 22) (j : Fin 8),
    p.command.chars[k].getLsbD j = p.cmdChars.getLsbD (168 - 8 * k + j)) ∧
  (∀ (s : State) (k : Fin 22) (j : Fin 8),
    (outputs s).rspChars.getLsbD (168 - 8 * k + j) = s.rsp.rs[k].getLsbD j) ∧
  (∀ c : Command, c.pins.command = c) ∧
  ∀ s : State, (outputs s).rspDone = s.rsp.done ∧ (outputs s).rspStatus = s.rsp.status ∧
    (outputs s).rspValue = s.rsp.rv ∧ (outputs s).rspLen = s.rsp.rsLen ∧ (outputs s).rspInt = s.rsp.ri

/-! ## The alphabet, the bytes, the groups -/

/-- R80: the table. The spec marks the numeric codes as general knowledge (G1, log 7). -/
def Obligations.AlphabetTable : Prop :=
  (∀ d : Digit, d.val < 10 → (alpha d).toNat = 0x30 + d.val) ∧
  (∀ d : Digit, 10 ≤ d.val → d.val < 36 → (alpha d).toNat = 0x41 + (d.val - 10)) ∧
  (∀ d : Digit, 36 ≤ d.val → d.val < 62 → (alpha d).toNat = 0x61 + (d.val - 36)) ∧
  alpha 62 = 0x5F#8 ∧ alpha 63 = 0x24#8 ∧
  ∀ d e : Digit, alpha d = alpha e → d = e

/-- R81: the reverse look-up (codes: G1, log 7). -/
def Obligations.IndexInvertsAlphabet : Prop :=
  (∀ (c : Cell) (d : Digit), index c = some d ↔ alpha d = c) ∧
  ((List.range 256).filter fun n => (index (BitVec.ofNat 8 n)).isSome).length = 64 ∧
  ∀ c : Cell,
    (index c).map Fin.val =
      if 0x30 ≤ c.toNat ∧ c.toNat ≤ 0x39 then some (c.toNat - 0x30)
      else if 0x41 ≤ c.toNat ∧ c.toNat ≤ 0x5A then some (c.toNat - 0x41 + 10)
      else if 0x61 ≤ c.toNat ∧ c.toNat ≤ 0x7A then some (c.toNat - 0x61 + 36)
      else if c = 0x5F#8 then some 62
      else if c = 0x24#8 then some 63
      else none

/-- R31: `byte[i]` is bits `[127-8i : 120-8i]`, both ways. -/
def Obligations.BytesNumberedFromTop : Prop :=
  (∀ (v : Value) (i : Fin 16) (j : Fin 8), (bytesOf v)[i].getLsbD j = v.getLsbD (120 - 8 * i + j)) ∧
  (∀ (b : Bytes) (i : Fin 16) (j : Fin 8), (valueOf b).getLsbD (120 - 8 * i + j) = b[i].getLsbD j) ∧
  (∀ v : Value, valueOf (bytesOf v) = v) ∧
  ∀ b : Bytes, bytesOf (valueOf b) = b

/-- R32: the leading fields are read most significant byte first and written back the same way. -/
def Obligations.LeadingFieldsBigEndian : Prop :=
  (∀ b : Bytes,
    field0 b = b[0].toNat * 16777216 + b[1].toNat * 65536 + b[2].toNat * 256 + b[3].toNat ∧
    field1 b = b[4].toNat * 256 + b[5].toNat ∧ field2 b = b[6].toNat * 256 + b[7].toNat) ∧
  (∀ v : Value,
    field0 (bytesOf v) = (v.extractLsb' 96 32).toNat ∧ field1 (bytesOf v) = (v.extractLsb' 80 16).toNat ∧
    field2 (bytesOf v) = (v.extractLsb' 64 16).toNat) ∧
  ∀ g : Groups, groupsInRange g →
    field0 (join g) = g.num0 * 16777216 + g.num1 ∧ field1 (join g) = g.num2 / 256 ∧
    field2 (join g) = (g.num2 % 256) * 256 + g.num3 / 65536

/-- R33: the canonical text. -/
def Obligations.CanonicalTextToBytes : Prop :=
  (∀ (t : UuidText) (k : Fin 16), t.bytes[k] = t.digits[2 * k.val] ++ t.digits[2 * k.val + 1]) ∧
  (∀ t : UuidText,
    field0 t.bytes = hexNat t.group0.toList ∧ field1 t.bytes = hexNat t.group1.toList ∧
    field2 t.bytes = hexNat t.group2.toList ∧
    (valueOf t.bytes).toNat % 2 ^ 64 = hexNat (t.group3.toList ++ t.group4.toList)) ∧
  ValueArg.assemble State.reset.rsp
    (.uuid ⟨#v[0, 1, 0xc, 0xf, 6, 2, 0xc, 8], #v[0xe, 9, 0xb, 0xc], #v[0xb, 0xf, 8, 8], #v[0, 0, 0, 0],
      #v[0, 0, 0, 0, 0, 0, 0, 0, 0, 0, 0, 5]⟩) = 0x01cf62c8e9bcbf880000000000000005#128

/-- R85: the six formulas, what they come to byte by byte, and their ranges. -/
def Obligations.SplitGivesDigitGroups : Prop :=
  ∀ b : Bytes,
    (split b).num0 = field0 b / 16777216 ∧ (split b).num0 = b[0].toNat ∧
    (split b).num1 = field0 b % 16777216 ∧
    (split b).num1 = b[1].toNat * 65536 + b[2].toNat * 256 + b[3].toNat ∧
    (split b).num2 = field1 b * 256 + field2 b / 256 ∧
    (split b).num2 = b[4].toNat * 65536 + b[5].toNat * 256 + b[6].toNat ∧
    (split b).num3 = (field2 b % 256) * 65536 + b[8].toNat * 256 + b[9].toNat ∧
    (split b).num3 = b[7].toNat * 65536 + b[8].toNat * 256 + b[9].toNat ∧
    (split b).num4 = b[10].toNat * 65536 + b[11].toNat * 256 + b[12].toNat ∧
    (split b).num5 = b[13].toNat * 65536 + b[14].toNat * 256 + b[15].toNat ∧
    groupsInRange (split b)

/-- R90: the formulas of `Join`, that it is the inverse of `Split` and the only one, and its one-line form. -/
def Obligations.JoinIsTheInverseOfSplit : Prop :=
  (∀ b : Bytes, join (split b) = b) ∧
  (∀ g : Groups, groupsInRange g → split (join g) = g) ∧
  (∀ j : Groups → Bytes, (∀ b, j (split b) = b) → ∀ g, groupsInRange g → j g = join g) ∧
  ∀ g : Groups, groupsInRange g →
    (join g).toList.map BitVec.toNat =
      [(g.num0 * 16777216 + g.num1) / 16777216, (g.num0 * 16777216 + g.num1) / 65536 % 256,
       (g.num0 * 16777216 + g.num1) / 256 % 256, (g.num0 * 16777216 + g.num1) % 256,
       g.num2 / 256 / 256, g.num2 / 256 % 256,
       ((g.num2 % 256) * 256 + g.num3 / 65536) / 256, ((g.num2 % 256) * 256 + g.num3 / 65536) % 256,
       g.num3 / 256 % 256, g.num3 % 256,
       g.num4 / 65536, g.num4 / 256 % 256, g.num4 % 256,
       g.num5 / 65536, g.num5 / 256 % 256, g.num5 % 256] ∧
    (valueOf (join g)).toNat =
      g.num0 * 2 ^ 120 + g.num1 * 2 ^ 96 + g.num2 * 2 ^ 72 + g.num3 * 2 ^ 48 + g.num4 * 2 ^ 24 + g.num5

/-- R82: where each group stands in the string and in the value, and its range. -/
def Obligations.GroupsCoverStringAndValue : Prop :=
  ∀ v : Value,
    (split (bytesOf v)).num0 = (v.extractLsb' 120 8).toNat ∧ (split (bytesOf v)).num1 = (v.extractLsb' 96 24).toNat ∧
    (split (bytesOf v)).num2 = (v.extractLsb' 72 24).toNat ∧ (split (bytesOf v)).num3 = (v.extractLsb' 48 24).toNat ∧
    (split (bytesOf v)).num4 = (v.extractLsb' 24 24).toNat ∧ (split (bytesOf v)).num5 = (v.extractLsb' 0 24).toNat ∧
    (split (bytesOf v)).num0 = (bytesOf v)[0].toNat ∧
    (split (bytesOf v)).num1 = ((bytesOf v)[1] ++ (bytesOf v)[2] ++ (bytesOf v)[3]).toNat ∧
    (split (bytesOf v)).num2 = ((bytesOf v)[4] ++ (bytesOf v)[5] ++ (bytesOf v)[6]).toNat ∧
    (split (bytesOf v)).num3 = ((bytesOf v)[7] ++ (bytesOf v)[8] ++ (bytesOf v)[9]).toNat ∧
    (split (bytesOf v)).num4 = ((bytesOf v)[10] ++ (bytesOf v)[11] ++ (bytesOf v)[12]).toNat ∧
    (split (bytesOf v)).num5 = ((bytesOf v)[13] ++ (bytesOf v)[14] ++ (bytesOf v)[15]).toNat ∧
    groupsInRange (split (bytesOf v)) ∧
    (∀ j : Fin 2, (compactString v)[j.val] = (render (split (bytesOf v)).num0 2)[j]) ∧
    (∀ j : Fin 4, (compactString v)[2 + j.val] = (render (split (bytesOf v)).num1 4)[j]) ∧
    (∀ j : Fin 4, (compactString v)[6 + j.val] = (render (split (bytesOf v)).num2 4)[j]) ∧
    (∀ j : Fin 4, (compactString v)[10 + j.val] = (render (split (bytesOf v)).num3 4)[j]) ∧
    (∀ j : Fin 4, (compactString v)[14 + j.val] = (render (split (bytesOf v)).num4 4)[j]) ∧
    (∀ j : Fin 4, (compactString v)[18 + j.val] = (render (split (bytesOf v)).num5 4)[j])

/-- R83: the characters of `Render`, that its precondition holds of every group of `Split`, and the examples. -/
def Obligations.RenderWritesDigits : Prop :=
  (∀ (n w : Nat) (j : Fin w), (render n w)[j] = alpha (Fin.ofNat 64 (n / 64 ^ (w - 1 - j.val)))) ∧
  (∀ b : Bytes, (split b).num0 < 64 ^ 2 ∧ (split b).num1 < 64 ^ 4 ∧ (split b).num2 < 64 ^ 4 ∧
    (split b).num3 < 64 ^ 4 ∧ (split b).num4 < 64 ^ 4 ∧ (split b).num5 < 64 ^ 4) ∧
  render 1 2 = #v[0x30#8, 0x31#8] ∧ render 255 2 = #v[0x33#8, 0x24#8] ∧
  render 13591240 4 = #v[0x70#8, 0x73#8, 0x42#8, 0x38#8]

/-- R89: how `Fold` goes on by one digit, that it reads back what `Render` wrote at every width, and its bounds. -/
def Obligations.FoldReadsBackRender : Prop :=
  (fold [] = 0 ∧ ∀ (d : List Digit) (x : Digit), fold (d ++ [x]) = fold d * 64 + x.val) ∧
  (∀ w n : Nat, n < 64 ^ w →
    ∃ d : Vector Digit w, (∀ j : Fin w, index (render n w)[j] = some d[j]) ∧ fold d.toList = n) ∧
  (∀ d : List Digit, fold d ≤ 64 ^ d.length - 1) ∧
  (∀ a b c d : Digit, fold [a, b, c, d] ≤ 16777215) ∧
  ∀ a b : Digit, a.val ≤ 3 → fold [a, b] ≤ 255

/-! ## ENC, DEC, VAL -/

/-- R88: ENC. -/
def Obligations.EncodeGivesCompactString : Prop :=
  (∀ c : Command, c.op = 0b000#3 → decode c = .enc c.value) ∧
  (∀ (v : Value) (s : State), v ≠ 0#128 →
    exec (.enc v) s = .next { s with rsp :=
      { done := true, status := 0#3, rv := 0#128, rsLen := 22#8, rs := compactString v, ri := 0#64 } }) ∧
  (∀ s : State, exec (.enc 0#128) s = .next { s with rsp :=
      { done := true, status := 4#3, rv := 0#128, rsLen := 0#8, rs := zeroChars, ri := 0#64 } }) ∧
  (∀ v : Value, (compactString v).toList =
    (render (split (bytesOf v)).num0 2).toList ++ (render (split (bytesOf v)).num1 4).toList ++
    (render (split (bytesOf v)).num2 4).toList ++ (render (split (bytesOf v)).num3 4).toList ++
    (render (split (bytesOf v)).num4 4).toList ++ (render (split (bytesOf v)).num5 4).toList) ∧
  (∀ v : Value, validString 22#8 (compactString v)) ∧
  (compactString 1#128).toList = List.replicate 21 0x30#8 ++ [0x31#8] ∧
  (compactString (BitVec.allOnes 128)).toList = 0x33#8 :: List.replicate 21 0x24#8 ∧
  (compactString 0x04000000000000000000000000000000#128).toList =
    [0x30#8, 0x34#8] ++ List.replicate 20 0x30#8 ∧
  (compactString 0xff000000000000000000000000000000#128).toList =
    [0x33#8, 0x24#8] ++ List.replicate 20 0x30#8 ∧
  (compactString 0x01cf62c8e9bcbf880000000000000005#128).toList =
    [0x30#8, 0x31#8, 0x70#8, 0x73#8, 0x42#8, 0x38#8, 0x77#8, 0x52#8, 0x6F#8, 0x24#8, 0x59#8] ++
    List.replicate 10 0x30#8 ++ [0x35#8]

/-- R92: DEC. -/
def Obligations.DecodeGivesValue : Prop :=
  (∀ c : Command, c.op = 0b001#3 → decode c = .dec c.len c.chars) ∧
  (∀ (chars : Chars) (d : Digits) (s : State), (∀ k : Fin 22, index chars[k] = some d[k]) → d[0].val ≤ 3 →
    exec (.dec 22#8 chars) s = .next { s with rsp :=
      { done := true, status := 0#3
        rv := valueOf (join
          { num0 := fold [d[0], d[1]], num1 := fold [d[2], d[3], d[4], d[5]],
            num2 := fold [d[6], d[7], d[8], d[9]], num3 := fold [d[10], d[11], d[12], d[13]],
            num4 := fold [d[14], d[15], d[16], d[17]], num5 := fold [d[18], d[19], d[20], d[21]] })
        rsLen := 0#8, rs := zeroChars, ri := 0#64 } }) ∧
  (∀ (len : Len) (chars : Chars) (s : State), check len chars ≠ .ok →
    exec (.dec len chars) s = .next { s with rsp :=
      { done := true, status := (check len chars).code, rv := 0#128, rsLen := 0#8, rs := zeroChars, ri := 0#64 } }) ∧
  (∀ (len : Len) (chars : Chars) (s : State), ∃ t, exec (.dec len chars) s = .next t ∧
    (t.rsp.status = 1#3 ↔ len ≠ 22#8) ∧
    (t.rsp.status = 2#3 ↔ len = 22#8 ∧ ∃ k : Fin 22, index chars[k] = none) ∧
    (t.rsp.status = 3#3 ↔ len = 22#8 ∧ (∀ k : Fin 22, index chars[k] ≠ none) ∧
      ∃ d, index chars[0] = some d ∧ 4 ≤ d.val)) ∧
  (∀ s : State, exec (.dec 22#8 allZeroString) s = .next { s with rsp :=
      { done := true, status := 0#3, rv := 0#128, rsLen := 0#8, rs := zeroChars, ri := 0#64 } }) ∧
  (∀ s : State, ∃ t, exec (.dec 22#8 (compactString (BitVec.allOnes 128))) s = .next t ∧
    t.rsp.status = 0#3 ∧ t.rsp.rv = BitVec.allOnes 128) ∧
  (∀ (chars : Chars) (s : State), (∀ k : Fin 22, index chars[k] ≠ none) →
    (index chars[0] = some 3 → ∃ t, exec (.dec 22#8 chars) s = .next t ∧ t.rsp.status = 0#3) ∧
    (index chars[0] = some 4 → ∃ t, exec (.dec 22#8 chars) s = .next t ∧ t.rsp.status = 3#3)) ∧
  ∀ s : State, ∃ t, exec (.dec 22#8 (compactString 0x01cf62c8e9bcbf880000000000000005#128)) s = .next t ∧
    t.rsp.status = 0#3 ∧ t.rsp.rv = 0x01cf62c8e9bcbf880000000000000005#128

/-- R93: VAL, and that it ends as DEC does on every operand. -/
def Obligations.ValidateReportsCheck : Prop :=
  (∀ c : Command, c.op = 0b010#3 → decode c = .val c.len c.chars) ∧
  (∀ (len : Len) (chars : Chars) (s : State),
    exec (.val len chars) s = .next { s with rsp :=
      { done := true, status := (check len chars).code, rv := 0#128, rsLen := 0#8, rs := zeroChars, ri := 0#64 } }) ∧
  (∀ (len : Len) (chars : Chars) (s s' : State),
    ∃ t u, exec (.val len chars) s = .next t ∧ exec (.dec len chars) s' = .next u ∧
      t.rsp.status = u.rsp.status) ∧
  check 22#8 allZeroString = .ok ∧ check 22#8 (allZeroString.set 0 0x34#8) = .outOfRange ∧
  check 22#8 (allZeroString.set 0 0x33#8) = .ok

/-- R91: the tests in order, and that `OK` means a valid compact string. -/
def Obligations.CheckTestsInOrder : Prop :=
  (∀ (len : Len) (chars : Chars), len.toNat ≠ 22 → check len chars = .invalidLength) ∧
  (∀ (len : Len) (chars : Chars), len.toNat = 22 → (∃ k : Fin 22, index chars[k] = none) →
    check len chars = .invalidCharacter) ∧
  (∀ (len : Len) (chars : Chars), len.toNat = 22 → (∀ k : Fin 22, index chars[k] ≠ none) →
    (∃ d, index chars[0] = some d ∧ 3 < d.val) → check len chars = .outOfRange) ∧
  ∀ (len : Len) (chars : Chars), check len chars = .ok ↔ validString len chars

/-- R84: what the block takes for a valid compact string, that there are 2^128 of them, and that each begins with one
of `0` `1` `2` `3`. -/
def Obligations.ValidStringsCounted : Prop :=
  (∀ (len : Len) (chars : Chars) (s : State), ∃ t, exec (.val len chars) s = .next t ∧
    (t.rsp.status = 0#3 ↔ len.toNat = 22 ∧ (∀ k : Fin 22, index chars[k] ≠ none) ∧
      ∀ d, index chars[0] = some d → d.val ≤ 3)) ∧
  (∀ (len : Len) (chars : Chars), validString len chars →
    chars[0] = 0x30#8 ∨ chars[0] = 0x31#8 ∨ chars[0] = 0x32#8 ∨ chars[0] = 0x33#8) ∧
  Nat.card {chars : Chars // validString 22#8 chars} = 2 ^ 128

/-- R151: `InvalidLength`, by DEC and by VAL; the cells are not looked at. -/
def Obligations.InvalidLengthExactlyOnWrongLength : Prop :=
  ∀ (len : Len) (chars : Chars) (s : State),
    (∃ t u, exec (.dec len chars) s = .next t ∧ exec (.val len chars) s = .next u ∧
      (t.rsp.status = 1#3 ↔ len ≠ 22#8) ∧ (u.rsp.status = 1#3 ↔ len ≠ 22#8)) ∧
    (len ≠ 22#8 → ∀ chars' : Chars, exec (.dec len chars') s = exec (.dec len chars) s ∧
      exec (.val len chars') s = exec (.val len chars) s)

/-- R152: `InvalidCharacter`, by DEC and by VAL. -/
def Obligations.InvalidCharacterExactlyOnForeignCell : Prop :=
  ∀ (len : Len) (chars : Chars) (s : State),
    ∃ t u, exec (.dec len chars) s = .next t ∧ exec (.val len chars) s = .next u ∧
      (t.rsp.status = 2#3 ↔ len = 22#8 ∧ ∃ k : Fin 22, index chars[k] = none) ∧
      (u.rsp.status = 2#3 ↔ len = 22#8 ∧ ∃ k : Fin 22, index chars[k] = none)

/-- R153: `OutOfRange`, by DEC and by VAL and by nothing else. -/
def Obligations.OutOfRangeExactlyOnLeadingDigit : Prop :=
  (∀ (len : Len) (chars : Chars) (s : State),
    ∃ t u, exec (.dec len chars) s = .next t ∧ exec (.val len chars) s = .next u ∧
      (t.rsp.status = 3#3 ↔ len = 22#8 ∧ (∀ k : Fin 22, index chars[k] ≠ none) ∧
        ∃ d, index chars[0] = some d ∧ 4 ≤ d.val) ∧
      (u.rsp.status = 3#3 ↔ len = 22#8 ∧ (∀ k : Fin 22, index chars[k] ≠ none) ∧
        ∃ d, index chars[0] = some d ∧ 4 ≤ d.val)) ∧
  ∀ (i : Instr) (s : State), ∃ t, exec i s = .next t ∧
    (t.rsp.status = 3#3 → i.opcode = 0b001#3 ∨ i.opcode = 0b010#3)

/-- R154, R86, R87: `InvalidValue`, by ENC of the nil value, without a string, and by nothing else: the other
operations take zero like any number, and the encoder refuses nothing more. -/
def Obligations.InvalidValueExactlyOnNil : Prop :=
  (∀ (v : Value) (s : State), ∃ t, exec (.enc v) s = .next t ∧
    (t.rsp.status = 4#3 ↔ v = 0#128) ∧ (t.rsp.status = 0#3 ↔ v ≠ 0#128) ∧ (v = 0#128 → noResult t.rsp)) ∧
  (∀ (v : Value), v = 0#128 ↔ ∀ i : Fin 16, (bytesOf v)[i] = 0#8) ∧
  (∀ (i : Instr) (s : State), ∃ t, exec i s = .next t ∧ (t.rsp.status = 4#3 → i = .enc 0#128)) ∧
  ∀ (i : Instr) (s : State),
    i = .dec 22#8 allZeroString ∨ i = .pk64 0#64 ∨ i = .pk32 0#64 ∨ i = .up64 0#128 ∨ i = .up32 0#128 →
    ∃ t, exec i s = .next t ∧ t.rsp.status = 0#3 ∧ t.rsp.rv = 0#128 ∧ t.rsp.ri = 0#64

/-! ## The packer -/

/-- R110: where the bytes of a packed integer stand. The spec marks the pattern of a negative integer as general
knowledge (G2, log 8). -/
def Obligations.PackedIntegerLayout : Prop :=
  ∀ (i : Int) (s : State), ∃ t, exec (.pk64 (BitVec.ofInt 64 i)) s = .next t ∧
    (∀ j : Fin 8, (bytesOf t.rsp.rv)[j.val] = 0#8) ∧
    (∀ j : Fin 8, ((bytesOf t.rsp.rv)[8 + j.val].toNat : Int) =
      (i % 2 ^ 64) / 256 ^ (7 - j.val) % 256) ∧
    t.rsp.rv.extractLsb' 64 64 = 0#64 ∧ t.rsp.rv.extractLsb' 0 64 = BitVec.ofInt 64 i

/-- R111: PK64. -/
def Obligations.Pack64GivesValue : Prop :=
  (∀ c : Command, c.op = 0b011#3 → decode c = .pk64 c.int) ∧
  (∀ (n : IntWord) (s : State), exec (.pk64 n) s = .next { s with rsp :=
      { done := true, status := 0#3, rv := 0#64 ++ n, rsLen := 0#8, rs := zeroChars, ri := 0#64 } }) ∧
  (∀ (n : IntWord) (k : Fin 11), (compactString (0#64 ++ n))[k.val] = 0x30#8) ∧
  (∀ n : IntWord, ∃ d, index (compactString (0#64 ++ n))[11] = some d ∧ d.val ≤ 15) ∧
  (0#64 ++ BitVec.ofInt 64 (-1) : Value) = 0x0000000000000000FFFFFFFFFFFFFFFF#128 ∧
  (0#64 ++ BitVec.ofInt 64 (-2 ^ 63) : Value) = 0x00000000000000008000000000000000#128 ∧
  (0#64 ++ BitVec.ofInt 64 123456789 : Value) = 0x000000000000000000000000075BCD15#128

/-- R112: the packer takes the integer zero, the encoder then refuses the value, and so ends `ENCI64 n=0`. -/
def Obligations.ZeroIsPackedAndRefusedByEncoder : Prop :=
  (∀ s : State, exec (.pk64 0#64) s = .next { s with rsp :=
      { done := true, status := 0#3, rv := 0#128, rsLen := 0#8, rs := zeroChars, ri := 0#64 } }) ∧
  (∀ s : State, exec (.pk32 0#64) s = .next { s with rsp :=
      { done := true, status := 0#3, rv := 0#128, rsLen := 0#8, rs := zeroChars, ri := 0#64 } }) ∧
  (∀ s : State, exec (.enc 0#128) s = .next { s with rsp :=
      { done := true, status := 4#3, rv := 0#128, rsLen := 0#8, rs := zeroChars, ri := 0#64 } }) ∧
  ∀ s : State, runItem (.pseudo (.enci64 (.decimal 0))) s = .next { s with rsp :=
      { done := true, status := 4#3, rv := 0#128, rsLen := 0#8, rs := zeroChars, ri := 0#64 } }

/-- R113: UP64. -/
def Obligations.Unpack64GivesInteger : Prop :=
  (∀ c : Command, c.op = 0b100#3 → decode c = .up64 c.value) ∧
  (∀ (high low : IntWord) (s : State), exec (.up64 (high ++ low)) s = .next { s with rsp :=
      { done := true, status := 0#3, rv := 0#128, rsLen := 0#8, rs := zeroChars, ri := low } }) ∧
  (∀ (v : Value) (s : State), ∃ t, exec (.up64 v) s = .next t ∧ t.rsp.ri.toNat = v.toNat % 2 ^ 64 ∧
    (t.rsp.ri.toInt < 0 ↔ v.getLsbD 63 = true)) ∧
  (∀ (n : IntWord) (s s' : State), ∃ t u, exec (.pk64 n) s = .next t ∧ exec (.up64 t.rsp.rv) s' = .next u ∧
    u.rsp.ri = n) ∧
  ∃ (v : Value) (s s' t u : State), exec (.up64 v) s = .next t ∧ exec (.pk64 t.rsp.ri) s' = .next u ∧
    u.rsp.rv ≠ v

/-- R114: PK32. -/
def Obligations.Pack32SignExtends : Prop :=
  (∀ c : Command, c.op = 0b101#3 → decode c = .pk32 c.int) ∧
  (∀ (high n : BitVec 32) (s : State), exec (.pk32 (high ++ n)) s = .next { s with rsp :=
      { done := true, status := 0#3, rv := 0#64 ++ (if n.getLsbD 31 then 0xFFFFFFFF#32 else 0#32) ++ n,
        rsLen := 0#8, rs := zeroChars, ri := 0#64 } }) ∧
  (∀ (n : BitVec 32) (j : Fin 4),
    (bytesOf (0#64 ++ (if n.getLsbD 31 then 0xFFFFFFFF#32 else 0#32) ++ n))[12 + j.val] =
      n.extractLsb' (24 - 8 * j.val) 8) ∧
  (∀ (i : Int) (s s' : State), -2 ^ 31 ≤ i → i < 2 ^ 31 →
    ∃ t u, exec (.pk32 (0#32 ++ BitVec.ofInt 32 i)) s = .next t ∧ exec (.pk64 (BitVec.ofInt 64 i)) s' = .next u ∧
      t.rsp.rv = u.rsp.rv) ∧
  ∀ s : State, ∃ t, exec (.pk32 0x80000000#64) s = .next t ∧
    t.rsp.rv = 0x0000000000000000FFFFFFFF80000000#128

/-- R115: UP32. -/
def Obligations.Unpack32TruncatesAndSignExtends : Prop :=
  (∀ c : Command, c.op = 0b110#3 → decode c = .up32 c.value) ∧
  (∀ (high : BitVec 96) (n : BitVec 32) (s : State), exec (.up32 (high ++ n)) s = .next { s with rsp :=
      { done := true, status := 0#3, rv := 0#128, rsLen := 0#8, rs := zeroChars,
        ri := (if n.getLsbD 31 then 0xFFFFFFFF#32 else 0#32) ++ n } }) ∧
  (∀ s : State, ∃ t, exec (.up32 0x100000000#128) s = .next t ∧ t.rsp.ri.toInt = 0) ∧
  (∀ s : State, ∃ t, exec (.up32 0xFFFFFFFF#128) s = .next t ∧ t.rsp.ri.toInt = -1) ∧
  (∀ s : State, ∃ t, exec (.up32 0x80000000#128) s = .next t ∧ t.rsp.ri.toInt = -2147483648) ∧
  ∀ (v : Value) (s s' : State), ∃ t u, exec (.up32 v) s = .next t ∧ exec (.up64 v) s' = .next u ∧
    (t.rsp.ri = u.rsp.ri ↔ -2 ^ 31 ≤ u.rsp.ri.toInt ∧ u.rsp.ri.toInt < 2 ^ 31)

/-- R20: the integer ports are two's complement (G2, log 8) with bit 63 the sign; the 32-bit integers on them. -/
def Obligations.Integers32OnPorts64 : Prop :=
  (∀ (v : Value) (s : State), ∃ t, exec (.up64 v) s = .next t ∧
    t.rsp.ri.toInt = if v.getLsbD 63 then (v.toNat % 2 ^ 64 : Int) - 2 ^ 64 else (v.toNat % 2 ^ 64 : Int)) ∧
  (∀ (n n' : IntWord) (s : State), n.extractLsb' 0 32 = n'.extractLsb' 0 32 →
    ∃ t, exec (.pk32 n) s = .next t ∧ exec (.pk32 n') s = .next t) ∧
  ∀ (v : Value) (s : State), ∃ t, exec (.up32 v) s = .next t ∧
    (∀ j : Fin 32, t.rsp.ri.getLsbD (32 + j.val) = t.rsp.ri.getLsbD 31) ∧
    t.rsp.ri.toInt = (v.extractLsb' 0 32).toInt

/-! ## The reserved code, errors, the latch -/

/-- R62: operation code 7, whatever is on the other ports; the next command executes as if it had not been. -/
def Obligations.ReservedCodeReportsIllegalOp : Prop :=
  ∀ (c : Command) (s : State), c.op = 0b111#3 →
    ∃ t, exec (decode c) s = .next t ∧
      t = { s with rsp :=
        { done := true, status := 7#3, rv := 0#128, rsLen := 0#8, rs := zeroChars, ri := 0#64 } } ∧
      ∀ c' : Command, ∃ u, exec (decode c') t = .next u ∧ exec (decode c') s = .next u

/-- R150: the numbers of the statuses, and which operation writes which: 0 is written by every operation but code 7,
1 to 3 by DEC and VAL only, 4 by ENC only, 5 and 6 never, 7 by code 7 only. -/
def Obligations.StatusNumbersAndWriters : Prop :=
  (Status.ok.code = 0#3 ∧ Status.invalidLength.code = 1#3 ∧ Status.invalidCharacter.code = 2#3 ∧
   Status.outOfRange.code = 3#3 ∧ Status.invalidValue.code = 4#3 ∧ Status.parseFailure.code = 5#3 ∧
   Status.illegalOp.code = 7#3) ∧
  (∀ (i : Instr) (s : State), ∃ t, exec i s = .next t ∧ t.rsp.status ≠ 5#3 ∧ t.rsp.status ≠ 6#3 ∧
    (t.rsp.status = 1#3 ∨ t.rsp.status = 2#3 ∨ t.rsp.status = 3#3 → i.opcode = 0b001#3 ∨ i.opcode = 0b010#3) ∧
    (t.rsp.status = 4#3 → i.opcode = 0b000#3) ∧
    (t.rsp.status = 7#3 ↔ i = .rsvd7)) ∧
  ∀ op : OpCode, op ≠ 0b111#3 →
    ∃ (i : Instr) (s t : State), i.opcode = op ∧ exec i s = .next t ∧ t.rsp.status = 0#3

/-- R161: which operation can end with which status, and that each cell marked `yes` does happen. -/
def Obligations.EndingsOfEachOperation : Prop :=
  (∀ (i : Instr) (s : State), ∃ t st, exec i s = .next t ∧ t.rsp.status = Status.code st ∧
    st ∈ mayEndWith i.opcode) ∧
  ∀ (op : OpCode) (st : Status), st ∈ mayEndWith op →
    ∃ (i : Instr) (s t : State), i.opcode = op ∧ exec i s = .next t ∧ t.rsp.status = st.code

/-- R157: the order in which DEC and VAL report what is wrong with a string, and that ENC has one error. -/
def Obligations.FirstErrorIsReported : Prop :=
  (∀ (v : Value) (s : State), ∃ t, exec (.enc v) s = .next t ∧
    (t.rsp.status ≠ Status.ok.code → t.rsp.status = Status.invalidValue.code)) ∧
  ∀ (len : Len) (chars : Chars) (s : State), ∃ t u,
    exec (.dec len chars) s = .next t ∧ exec (.val len chars) s = .next u ∧ t.rsp.status = u.rsp.status ∧
    u.rsp.status =
      if len ≠ 22#8 then Status.invalidLength.code
      else if ∃ k : Fin 22, index chars[k] = none then Status.invalidCharacter.code
      else if ∃ d, index chars[0] = some d ∧ 3 < d.val then Status.outOfRange.code
      else Status.ok.code

/-- R155: an error leaves every result zero, and nothing else changes. -/
def Obligations.ErrorLeavesNoResult : Prop :=
  ∀ (i : Instr) (s : State), ∃ t, exec i s = .next t ∧ t.rsp.done = true ∧ t.inputs = s.inputs ∧
    (t.rsp.status ≠ Status.ok.code → noResult t.rsp)

/-- R160: an error leaves no residue. Whatever command comes after one that ended with an error executes as if it had
not been, and the same bad operand gives the same error again. -/
def Obligations.ErrorLeavesNoResidue : Prop :=
  ∀ (i j : Instr) (s : State), ∃ t, exec i s = .next t ∧
    (t.rsp.status ≠ Status.ok.code →
      (∃ u, exec j t = .next u ∧ exec j s = .next u) ∧ ∃ u, exec i t = .next u ∧ u.rsp = t.rsp)

/-- R60: after an `OK` the fields the operation produces hold its result and every other result field is zero; after
an error every result field is zero. -/
def Obligations.UnproducedFieldsAreZero : Prop :=
  ∀ (i : Instr) (s : State), ∃ t, exec i s = .next t ∧
    (t.rsp.status ≠ 0#3 → noResult t.rsp) ∧
    (t.rsp.status = 0#3 →
      (∀ v, i = .enc v → t.rsp.rsLen = 22#8 ∧ t.rsp.rs = compactString v) ∧
      (∀ len chars, i = .dec len chars → compactString t.rsp.rv = chars) ∧
      (∀ n, i = .pk64 n → t.rsp.rv = n.setWidth 128) ∧
      (∀ n, i = .pk32 n → t.rsp.rv = ((n.extractLsb' 0 32).signExtend 64).setWidth 128) ∧
      (∀ v, i = .up64 v → t.rsp.ri = v.extractLsb' 0 64) ∧
      (∀ v, i = .up32 v → t.rsp.ri = (v.extractLsb' 0 32).signExtend 64) ∧
      (i.opcode = 0b000#3 → t.rsp.rv = 0#128 ∧ t.rsp.ri = 0#64) ∧
      (i.opcode = 0b001#3 ∨ i.opcode = 0b011#3 ∨ i.opcode = 0b101#3 →
        t.rsp.rsLen = 0#8 ∧ (∀ k : Fin 22, t.rsp.rs[k] = 0x00#8) ∧ t.rsp.ri = 0#64) ∧
      (i.opcode = 0b010#3 → noResult t.rsp) ∧
      (i.opcode = 0b100#3 ∨ i.opcode = 0b110#3 →
        t.rsp.rv = 0#128 ∧ t.rsp.rsLen = 0#8 ∧ ∀ k : Fin 22, t.rsp.rs[k] = 0x00#8))

/-- R19: the response is a function of the command alone, for an instruction and for a command at an edge. -/
def Obligations.ResponseIsFunctionOfCommand : Prop :=
  (∀ i : Instr, ∃ r : Rsp, r.done = true ∧ ∀ s : State, exec i s = .next { s with rsp := r }) ∧
  ∀ c : Command, ∃ r : Rsp, r.done = true ∧ ∀ s : State, step (s.present c) = .next { s with rsp := r }

/-- The latch invariant holds at reset. -/
def Obligations.LatchWellFormedAtReset : Prop := latchWf State.reset.rsp

/-- Every step keeps the latch well formed: its status is one the block writes, an error has no result, a string
result is a valid compact string, and of the results at most one is there. -/
def Obligations.StepKeepsLatchWellFormed : Prop :=
  ∀ s t : State, latchWf s.rsp → step s = .next t → latchWf t.rsp

/-- From R187: a run always goes on, and after the edges the host shows the latch holds the response of the last
command, or the reset value if the last event was a reset, or what it held if there was no event. Two parts are the
model's choice: that the steps past the edges shown go on as idle edges (log 2), and that the events of a run are the
list `inputs`, which a run uses up (log 1). -/
def Obligations.RunEndsWithLastEvent : Prop :=
  (∀ (k : Nat) (s : State), ∃ t : State, Host.Core.run Sys2Proof.core k s = .next t) ∧
  ∀ s : State, ∃ t : State, Host.Core.run Sys2Proof.core s.inputs.length s = .next t ∧ t.inputs = [] ∧
    match (s.inputs.filter isEvent).getLast? with
    | none => t.rsp = s.rsp
    | some p =>
      if p.rst = true then t.rsp = State.reset.rsp
      else ∃ u, exec (decode p.command) State.reset = .next u ∧ t.rsp = u.rsp

/-! ## Laws -/

/-- R94: the codec is the plain base-64 expansion with 22 digits. -/
def Obligations.CodecIsBase64Expansion : Prop :=
  (∀ (v : Value) (s : State), v ≠ 0#128 → ∃ t, exec (.enc v) s = .next t ∧
    (∀ k : Fin 22, t.rsp.rs[k] = alpha (Fin.ofNat 64 (v.toNat / 64 ^ (21 - k.val)))) ∧
    t.rsp.rs[0] = alpha (Fin.ofNat 64 (v.extractLsb' 126 2).toNat) ∧
    t.rsp.rs[1] = alpha (Fin.ofNat 64 (v.extractLsb' 120 6).toNat) ∧
    ∀ k : Fin 22, 2 ≤ k.val → t.rsp.rs[k] = alpha (Fin.ofNat 64 (v.extractLsb' (6 * (21 - k.val)) 6).toNat)) ∧
  (∀ (chars : Chars) (d : Digits) (s : State), (∀ k : Fin 22, index chars[k] = some d[k]) → d[0].val ≤ 3 →
    ∃ t, exec (.dec 22#8 chars) s = .next t ∧
      t.rsp.rv.toNat = ∑ k : Fin 22, d[k].val * 64 ^ (21 - k.val)) ∧
  ∀ d : Digits, d[0].val ≤ 3 ↔ ∑ k : Fin 22, d[k].val * 64 ^ (21 - k.val) < 2 ^ 128

/-- R95: the round trips, the nil string, the bijection, determinism. -/
def Obligations.CodecRoundTrips : Prop :=
  (∀ (v : Value) (s s' : State), v ≠ 0#128 → ∃ t, exec (.enc v) s = .next t ∧ t.rsp.status = 0#3 ∧
    validString t.rsp.rsLen t.rsp.rs ∧
    ∃ u, exec (.dec t.rsp.rsLen t.rsp.rs) s' = .next u ∧ u.rsp.status = 0#3 ∧ u.rsp.rv = v) ∧
  (∀ (len : Len) (chars : Chars) (s s' : State), validString len chars → chars ≠ allZeroString →
    ∃ t, exec (.dec len chars) s = .next t ∧ t.rsp.status = 0#3 ∧ t.rsp.rv ≠ 0#128 ∧
    ∃ u, exec (.enc t.rsp.rv) s' = .next u ∧ u.rsp.status = 0#3 ∧ u.rsp.rsLen = len ∧ u.rsp.rs = chars) ∧
  (∀ s s' : State, ∃ t, exec (.dec 22#8 allZeroString) s = .next t ∧ t.rsp.status = 0#3 ∧ t.rsp.rv = 0#128 ∧
    ∃ u, exec (.enc t.rsp.rv) s' = .next u ∧ u.rsp.status = Status.invalidValue.code) ∧
  Set.BijOn compactString {v | v ≠ 0#128} {c | validString 22#8 c ∧ c ≠ allZeroString} ∧
  ∀ (i : Instr) (s s' : State), ∃ t t', exec i s = .next t ∧ exec i s' = .next t' ∧ t.rsp = t'.rsp

/-- R116: the integer round trips, alone and through the codec. -/
def Obligations.IntegerRoundTrips : Prop :=
  (∀ (n : IntWord) (s s' : State), ∃ t u, exec (.pk64 n) s = .next t ∧ exec (.up64 t.rsp.rv) s' = .next u ∧
    u.rsp.ri = n) ∧
  (∀ (i : Int) (s s' : State), -2 ^ 31 ≤ i → i < 2 ^ 31 →
    ∃ t u w, exec (.pk32 ((BitVec.ofInt 32 i).setWidth 64)) s = .next t ∧
      exec (.up32 t.rsp.rv) s' = .next u ∧ exec (.up64 t.rsp.rv) s' = .next w ∧
      u.rsp.ri.toInt = i ∧ w.rsp.ri.toInt = i) ∧
  (∀ (v : Value) (s s' : State), ∃ t u, exec (.up64 v) s = .next t ∧ exec (.pk64 t.rsp.ri) s' = .next u ∧
    (u.rsp.rv = v ↔ v.extractLsb' 64 64 = 0#64)) ∧
  (∀ (n : IntWord) (s s' : State), ∃ t u, exec (.pk64 n) s = .next t ∧ exec (.up32 t.rsp.rv) s' = .next u ∧
    (u.rsp.ri = n ↔ -2 ^ 31 ≤ n.toInt ∧ n.toInt < 2 ^ 31)) ∧
  (∀ (i : Int) (s : State), -2 ^ 63 ≤ i → i < 2 ^ 63 → i ≠ 0 →
    ∃ t u, runItem (.pseudo (.enci64 (.decimal i))) s = .next t ∧ t.rsp.status = 0#3 ∧
      validString t.rsp.rsLen t.rsp.rs ∧
      runItem (.pseudo (.deci64 .rs)) t = .next u ∧ u.rsp.status = 0#3 ∧ u.rsp.ri.toInt = i) ∧
  (∀ s : State, ∃ t u, runItem (.pseudo (.enci64 (.decimal 123456789))) s = .next t ∧
    t.rsp.rs.toList = List.replicate 17 0x30#8 ++ [0x37#8, 0x4D#8, 0x79#8, 0x71#8, 0x4C#8] ∧
    runItem (.pseudo (.enci64 (.hex [1, 0xa]))) s = .next u ∧
    u.rsp.rs.toList = List.replicate 21 0x30#8 ++ [0x51#8]) ∧
  ∀ (a : StringArg) (s : State), ∃ t u w, runItem (.pseudo (.deci64 a)) s = .next t ∧
    runItem (.pseudo (.deci32 a)) s = .next u ∧ runLine (.dec a) s = .next w ∧
    t.rsp.status = w.rsp.status ∧ u.rsp.status = w.rsp.status

/-! ## The host's script -/

/-- R55: how a string of any length is carried, and that a cell beyond a wrong length is never read. -/
def Obligations.StringsOfAnyLengthAreCarried : Prop :=
  (∀ cells : List Cell, (quotedLen cells).toNat = if cells.length < 255 then cells.length else 255) ∧
  (∀ cells : List Cell, quotedLen cells = 22#8 ↔ cells.length = 22) ∧
  (∀ (cells : List Cell) (k : Fin 22) (h : k.val < cells.length), (quotedChars cells)[k] = cells[k.val]) ∧
  (∀ (cells : List Cell) (s : State), cells.length ≠ 22 →
    ∃ t u, runLine (.dec (.quoted cells)) s = .next t ∧ runLine (.val (.quoted cells)) s = .next u ∧
      t.rsp.status = Status.invalidLength.code ∧ u.rsp.status = Status.invalidLength.code) ∧
  ∀ (len : Len) (chars chars' : Chars) (s : State), len ≠ 22#8 →
    exec (.dec len chars) s = exec (.dec len chars') s ∧ exec (.val len chars) s = exec (.val len chars') s

/-- How the assembler writes a well-formed decimal or hexadecimal integer: its two's-complement pattern, the high half
of the port zero for PK32 (R65; two's complement is log 8). -/
def Obligations.IntegersAreAssembledAsPatterns : Prop :=
  (∀ (n : Int) (r : Rsp), (IntArg.decimal n).wellFormed 64 = true →
    (IntArg.assemble64 r (.decimal n)).toInt = n) ∧
  (∀ (n : Int) (r : Rsp), (IntArg.decimal n).wellFormed 32 = true →
    ((IntArg.assemble32 r (.decimal n)).extractLsb' 0 32).toInt = n ∧
    (IntArg.assemble32 r (.decimal n)).extractLsb' 32 32 = 0#32) ∧
  (∀ (d : List Nibble) (r : Rsp), (IntArg.hex d).wellFormed 64 = true →
    (IntArg.assemble64 r (.hex d)).toNat = hexNat d) ∧
  ∀ (d : List Nibble) (r : Rsp), (IntArg.hex d).wellFormed 32 = true →
    (IntArg.assemble32 r (.hex d)).toNat = hexNat d

/-- A line of script runs the instruction it stands for, its operand resolved against the latch when the line is
reached (R65). -/
def Obligations.LineRunsItsInstruction : Prop :=
  (∀ (l : Line) (s : State), runLine l s = exec (l.instr s.rsp) s) ∧
  ∀ (r : Rsp), ValueArg.assemble r .rv = r.rv ∧ StringArg.assemble r .rs = (r.rsLen, r.rs) ∧
    IntArg.assemble64 r .ri = r.ri ∧ IntArg.assemble32 r .ri = r.ri

/-- R66: the expansions, where a sequence stops, and how `ENCI64 n=0` and `ENCI32 n=0` end. -/
def Obligations.PseudoInstructionsStopAtFirstError : Prop :=
  (∀ n, Pseudo.expand (.enci64 n) = [.pk64 n, .enc .rv]) ∧
  (∀ n, Pseudo.expand (.enci32 n) = [.pk32 n, .enc .rv]) ∧
  (∀ a, Pseudo.expand (.deci64 a) = [.dec a, .up64 .rv]) ∧
  (∀ a, Pseudo.expand (.deci32 a) = [.dec a, .up32 .rv]) ∧
  (∀ v, Pseudo.expand (.rtrip v) = [.enc v, .dec .rs]) ∧
  (∀ (p : Pseudo) (s : State), ∃ l l' t, p.expand = [l, l'] ∧ runLine l s = .next t ∧
    (t.rsp.status ≠ 0#3 → runItem (.pseudo p) s = .next t) ∧
    (t.rsp.status = 0#3 → runItem (.pseudo p) s = runLine l' t)) ∧
  ∀ s : State, ∃ t u, runItem (.pseudo (.enci64 (.decimal 0))) s = .next t ∧
    runItem (.pseudo (.enci32 (.decimal 0))) s = .next u ∧
    t.rsp.status = Status.invalidValue.code ∧ u.rsp.status = Status.invalidValue.code

/-- The hazard of R184: after a `DEC` that fails, a plain `UP64 v=RV` completes `OK` with the integer 0 and the error
is gone; the pseudo-instruction keeps it. -/
def Obligations.ErrorIsLostWithoutTheTest : Prop :=
  ∀ (a : StringArg) (s t : State), runLine (.dec a) s = .next t → t.rsp.status ≠ Status.ok.code →
    (∃ u, runLine (.up64 .rv) t = .next u ∧ u.rsp.status = Status.ok.code ∧ u.rsp.ri = 0#64 ∧ noResult u.rsp) ∧
    runItem (.pseudo (.deci64 a)) s = .next t
end

