-- ==== Sys2Proof/Laws/Alphabet.lean ====
section
/-! SUPPORT. The two look-ups of the alphabet, the digits of a string, and everything `readString` can answer. -/

namespace Sys2Proof.Machine

@[simp] theorem index_alpha (d : Digit) : index (alpha d) = some d := by revert d; decide

theorem index_eq_some_iff (c : Cell) (d : Digit) : index c = some d ↔ alpha d = c := by
  constructor
  · revert c d; decide
  · rintro rfl; exact index_alpha d

theorem digits_eq_some_iff (s : Chars) (d : Digits) :
    digits s = some d ↔ ∀ k : Fin 22, index s[k] = some d[k] := by
  unfold digits
  split
  case isTrue h =>
    simp only [Option.some.injEq]
    constructor
    · rintro rfl k; simp
    · intro hk
      ext i hi
      have := hk ⟨i, hi⟩
      simp at this ⊢
      simp [this]
  case isFalse h =>
    simp only [reduceCtorEq, false_iff]
    exact fun hk => h fun k => by rw [hk k]; rfl

theorem digits_eq_none_iff (s : Chars) : digits s = none ↔ ∃ k : Fin 22, index s[k] = none := by
  unfold digits
  split
  case isTrue h =>
    simp only [reduceCtorEq, false_iff, not_exists]
    intro k hk
    exact absurd (h k) (by rw [hk]; simp)
  case isFalse h => simpa using h

theorem exists_digits (s : Chars) (h : ∀ k : Fin 22, index s[k] ≠ none) : ∃ d, digits s = some d := by
  cases hd : digits s with
  | some d => exact ⟨d, rfl⟩
  | none =>
    obtain ⟨k, hk⟩ := (digits_eq_none_iff s).1 hd
    exact absurd hk (h k)

/-- Everything `readString` can answer: the tests of `40_codec.md` R91, in order. -/
theorem readString_cases (len : Len) (s : Chars) :
    (len.toNat ≠ 22 ∧ readString len s = .error .invalidLength) ∨
    (len.toNat = 22 ∧ (∃ k : Fin 22, index s[k] = none) ∧ readString len s = .error .invalidCharacter) ∨
    (len.toNat = 22 ∧ ∃ d : Digits, (∀ k : Fin 22, index s[k] = some d[k]) ∧
      (3 < d[0].val ∧ readString len s = .error .outOfRange ∨
       d[0].val ≤ 3 ∧ readString len s = .ok d)) := by
  unfold readString
  by_cases hl : len.toNat = 22
  · right
    cases hd : digits s with
    | none => exact .inl ⟨hl, (digits_eq_none_iff s).1 hd, by simp [hl]⟩
    | some d =>
      refine .inr ⟨hl, d, (digits_eq_some_iff s d).1 hd, ?_⟩
      by_cases h3 : 3 < d[0].val
      · exact .inl ⟨h3, by simp [hl, h3]⟩
      · exact .inr ⟨by omega, by simp [hl, h3]⟩
  · exact .inl ⟨hl, by simp [hl]⟩

theorem readString_ok_iff (len : Len) (s : Chars) (d : Digits) :
    readString len s = .ok d ↔
      len.toNat = 22 ∧ (∀ k : Fin 22, index s[k] = some d[k]) ∧ d[0].val ≤ 3 := by
  rcases readString_cases len s with ⟨h, e⟩ | ⟨h, ⟨k, hk⟩, e⟩ | ⟨h, d', hd, ⟨h3, e⟩ | ⟨h3, e⟩⟩
  · simp [e, h]
  · rw [e]
    simp only [reduceCtorEq, false_iff]
    rintro ⟨-, hd, -⟩
    rw [hd k] at hk; cases hk
  · rw [e]
    simp only [reduceCtorEq, false_iff]
    rintro ⟨-, hd', h0⟩
    have := (hd 0).symm.trans (hd' 0)
    simp at this
    rw [this] at h3; omega
  · rw [e]
    simp only [Except.ok.injEq]
    constructor
    · rintro rfl; exact ⟨h, hd, h3⟩
    · rintro ⟨-, hd', -⟩
      have a := (digits_eq_some_iff s d').2 hd
      rw [(digits_eq_some_iff s d).2 hd'] at a
      exact (Option.some.inj a).symm

/-- A string is valid (`40_codec.md` R84) exactly when `readString` reads it. -/
theorem validString_iff_readString (len : Len) (s : Chars) :
    validString len s ↔ ∃ d, readString len s = .ok d := by
  constructor
  · rintro ⟨hl, hc, h0⟩
    obtain ⟨d, hd⟩ := exists_digits s hc
    have hk := (digits_eq_some_iff s d).1 hd
    exact ⟨d, (readString_ok_iff len s d).2 ⟨hl, hk, h0 _ (hk 0)⟩⟩
  · rintro ⟨d, hd⟩
    obtain ⟨hl, hk, h0⟩ := (readString_ok_iff len s d).1 hd
    refine ⟨hl, fun k => by rw [hk k]; simp, fun e he => ?_⟩
    have := (hk 0).symm.trans he
    simp at this
    rw [← this]; exact h0

/-- The only errors a string operand has (`60_exceptions.md` R161). -/
theorem readString_error (len : Len) (s : Chars) (e : Status) (h : readString len s = .error e) :
    e = .invalidLength ∨ e = .invalidCharacter ∨ e = .outOfRange := by
  rcases readString_cases len s with ⟨_, e'⟩ | ⟨_, _, e'⟩ | ⟨_, d', _, ⟨_, e'⟩ | ⟨_, e'⟩⟩ <;>
    rw [e'] at h <;> simp_all

end Sys2Proof.Machine
end

