-- ==== Sys2Proof/Laws/Bits.lean ====
section
/-! SUPPORT. Bytes of a value and cells of a character port: what each look-up and each concatenation gives, as bits
and as numbers. -/

namespace Sys2Proof

theorem unpackChars_getElem (p : BitVec 176) (k : Nat) (h : k < 22) :
    (unpackChars p)[k] = p.extractLsb' (168 - 8 * k) 8 := by simp [unpackChars]

/-- Cell `k` of the port comes back out of it. -/
theorem extract_packChars (s : Chars) (k : Nat) (h : k < 22) :
    (packChars s).extractLsb' (168 - 8 * k) 8 = s[k] := by
  unfold packChars
  interval_cases k
  all_goals
    simp only [Nat.reduceMul, Nat.reduceSub]
    repeat first
      | rw [BitVec.extractLsb'_append_eq_of_le (by omega)]
      | rw [BitVec.extractLsb'_append_eq_of_add_le (by omega)]
    exact BitVec.extractLsb'_eq_self

@[simp] theorem unpackChars_packChars (s : Chars) : unpackChars (packChars s) = s := by
  ext i hi : 1
  rw [unpackChars_getElem _ _ hi, extract_packChars _ _ hi]

/-- Adding one byte below a vector, as numbers. -/
theorem toNat_append_byte {w : Nat} (x : BitVec w) (y : Byte) :
    (x ++ y).toNat = x.toNat * 256 + y.toNat := by
  rw [BitVec.toNat_append, Nat.shiftLeft_eq, Nat.mul_comm, ← Nat.two_pow_add_eq_or_of_lt y.isLt]

namespace Machine

theorem bytesOf_getElem (v : Value) (i : Nat) (h : i < 16) :
    (bytesOf v)[i] = v.extractLsb' (120 - 8 * i) 8 := by simp [bytesOf]

theorem bytesOf_toNat (v : Value) (i : Nat) (h : i < 16) :
    (bytesOf v)[i].toNat = v.toNat / 2 ^ (120 - 8 * i) % 256 := by
  rw [bytesOf_getElem, BitVec.extractLsb'_toNat, Nat.shiftRight_eq_div_pow]

/-- Byte `i` comes back out of the value. -/
theorem extract_valueOf (b : Bytes) (i : Nat) (h : i < 16) :
    (valueOf b).extractLsb' (120 - 8 * i) 8 = b[i] := by
  unfold valueOf
  interval_cases i
  all_goals
    simp only [Nat.reduceMul, Nat.reduceSub]
    repeat first
      | rw [BitVec.extractLsb'_append_eq_of_le (by omega)]
      | rw [BitVec.extractLsb'_append_eq_of_add_le (by omega)]
    exact BitVec.extractLsb'_eq_self

@[simp] theorem bytesOf_valueOf (b : Bytes) : bytesOf (valueOf b) = b := by
  ext i hi : 1
  rw [bytesOf_getElem _ _ hi, extract_valueOf _ _ hi]

theorem valueOf_toNat (b : Bytes) : (valueOf b).toNat =
    b[0].toNat * 2 ^ 120 + b[1].toNat * 2 ^ 112 + b[2].toNat * 2 ^ 104 + b[3].toNat * 2 ^ 96 +
    b[4].toNat * 2 ^ 88 + b[5].toNat * 2 ^ 80 + b[6].toNat * 2 ^ 72 + b[7].toNat * 2 ^ 64 +
    b[8].toNat * 2 ^ 56 + b[9].toNat * 2 ^ 48 + b[10].toNat * 2 ^ 40 + b[11].toNat * 2 ^ 32 +
    b[12].toNat * 2 ^ 24 + b[13].toNat * 2 ^ 16 + b[14].toNat * 2 ^ 8 + b[15].toNat := by
  unfold valueOf
  simp only [toNat_append_byte]
  omega

/-- Bit `j` of byte `i` is bit `120 - 8i + j` of the value. -/
theorem valueOf_getLsbD (b : Bytes) (i j : Nat) (hi : i < 16) (hj : j < 8) :
    (valueOf b).getLsbD (120 - 8 * i + j) = b[i].getLsbD j := by
  rw [← extract_valueOf b i hi, BitVec.getLsbD_extractLsb']
  simp [hj]

@[simp] theorem valueOf_bytesOf (v : Value) : valueOf (bytesOf v) = v := by
  apply BitVec.eq_of_getLsbD_eq
  intro m hm
  have h := valueOf_getLsbD (bytesOf v) (15 - m / 8) (m % 8) (by omega) (by omega)
  rw [bytesOf_getElem _ _ (by omega), BitVec.getLsbD_extractLsb',
    show 120 - 8 * (15 - m / 8) + m % 8 = m by omega] at h
  rw [h]
  simp [show m % 8 < 8 by omega]

end Machine

end Sys2Proof
end

