-- ==== Sys2Proof/Laws/Codec.lean ====
section
/-! SUPPORT. The characters `render` and `renderGroups` write, one at a time, and what `fold` adds per digit. -/

namespace Sys2Proof.Machine

theorem render_getElem (n w j : Nat) (h : j < w) :
    (render n w)[j] = alpha (Fin.ofNat 64 (n / 64 ^ (w - 1 - j))) := by simp [render]

@[simp] theorem fold_nil : fold [] = 0 := rfl

theorem fold_append (d : List Digit) (x : Digit) : fold (d ++ [x]) = fold d * 64 + x.val := by
  simp [fold]

theorem fold_two (a b : Digit) : fold [a, b] = a.val * 64 + b.val := by simp [fold]

theorem fold_four (a b c d : Digit) :
    fold [a, b, c, d] = ((a.val * 64 + b.val) * 64 + c.val) * 64 + d.val := by simp [fold]

theorem renderGroups_toList (g : Groups) : (renderGroups g).toList =
    (render g.num0 2).toList ++ (render g.num1 4).toList ++ (render g.num2 4).toList ++
    (render g.num3 4).toList ++ (render g.num4 4).toList ++ (render g.num5 4).toList := by
  have h := Vector.toList_append
    (xs := render g.num0 2 ++ render g.num1 4 ++ render g.num2 4 ++ render g.num3 4 ++ render g.num4 4)
    (ys := render g.num5 4)
  exact h.trans (by simp only [Vector.toList_append])

theorem byte_lt (b : Bytes) (i : Nat) (h : i < 16) : b[i].toNat < 256 := b[i].isLt

/-- The groups of `split`, byte by byte (`40_codec.md` R85, the right-hand comments). -/
theorem split_eq (b : Bytes) : split b =
    { num0 := b[0].toNat
      num1 := b[1].toNat * 65536 + b[2].toNat * 256 + b[3].toNat
      num2 := b[4].toNat * 65536 + b[5].toNat * 256 + b[6].toNat
      num3 := b[7].toNat * 65536 + b[8].toNat * 256 + b[9].toNat
      num4 := b[10].toNat * 65536 + b[11].toNat * 256 + b[12].toNat
      num5 := b[13].toNat * 65536 + b[14].toNat * 256 + b[15].toNat } := by
  have h1 := byte_lt b 1 (by decide)
  have h2 := byte_lt b 2 (by decide)
  have h3 := byte_lt b 3 (by decide)
  have h6 := byte_lt b 6 (by decide)
  have h7 := byte_lt b 7 (by decide)
  simp only [split, field0, field1, field2, Groups.mk.injEq]
  refine ⟨?_, ?_, ?_, ?_, True.intro, True.intro⟩ <;> omega

/-- `join` undoes `split`. -/
theorem join_split (b : Bytes) : join (split b) = b := by
  have h0 := byte_lt b 0 (by decide)
  have h1 := byte_lt b 1 (by decide)
  have h2 := byte_lt b 2 (by decide)
  have h3 := byte_lt b 3 (by decide)
  have h4 := byte_lt b 4 (by decide)
  have h5 := byte_lt b 5 (by decide)
  have h6 := byte_lt b 6 (by decide)
  have h7 := byte_lt b 7 (by decide)
  have h8 := byte_lt b 8 (by decide)
  have h9 := byte_lt b 9 (by decide)
  have h10 := byte_lt b 10 (by decide)
  have h11 := byte_lt b 11 (by decide)
  have h12 := byte_lt b 12 (by decide)
  have h13 := byte_lt b 13 (by decide)
  have h14 := byte_lt b 14 (by decide)
  have h15 := byte_lt b 15 (by decide)
  rw [split_eq]
  ext i hi : 1
  apply BitVec.eq_of_toNat_eq
  simp only [join]
  interval_cases i <;> simp <;> omega

/-- A cell of a string, looked up in its list of cells. -/
theorem chars_getElem_of_toList (s : Chars) (l : List Cell) (e : s.toList = l) (k : Nat) (hk : k < 22)
    (h : k < l.length) : s[k] = l[k]'h := by
  subst e; simp

/-- The characters of a compact string, group by group (`40_codec.md` R82). -/
theorem renderGroups_getElem (g : Groups) :
    (∀ j (_ : j < 2), (renderGroups g)[j] = alpha (Fin.ofNat 64 (g.num0 / 64 ^ (1 - j)))) ∧
    (∀ j (_ : j < 4), (renderGroups g)[2 + j] = alpha (Fin.ofNat 64 (g.num1 / 64 ^ (3 - j)))) ∧
    (∀ j (_ : j < 4), (renderGroups g)[6 + j] = alpha (Fin.ofNat 64 (g.num2 / 64 ^ (3 - j)))) ∧
    (∀ j (_ : j < 4), (renderGroups g)[10 + j] = alpha (Fin.ofNat 64 (g.num3 / 64 ^ (3 - j)))) ∧
    (∀ j (_ : j < 4), (renderGroups g)[14 + j] = alpha (Fin.ofNat 64 (g.num4 / 64 ^ (3 - j)))) ∧
    (∀ j (_ : j < 4), (renderGroups g)[18 + j] = alpha (Fin.ofNat 64 (g.num5 / 64 ^ (3 - j)))) := by
  refine ⟨?_, ?_, ?_, ?_, ?_, ?_⟩ <;> intro j h <;>
    rw [chars_getElem_of_toList _ _ (renderGroups_toList g) _ (by omega) (by simp; omega)] <;>
    interval_cases j <;> simp [render_getElem]

end Sys2Proof.Machine
end

