-- ==== Sys2Proof/Laws/State.lean ====
section
/-! SUPPORT. One lemma per field per update of State, each true by `rfl`: what `respond` and the operations over it
write, and that the pending inputs stay; what the operations on the pending inputs write, and that the latch stays. -/

namespace Sys2Proof.Machine

variable (st e : Status) (rv : Value) (n : Len) (rs : Chars) (ri : IntWord) (s : State)

@[simp] theorem respond_done : (respond st rv n rs ri s).rsp.done = true := rfl
@[simp] theorem respond_status : (respond st rv n rs ri s).rsp.status = st.code := rfl
@[simp] theorem respond_rv : (respond st rv n rs ri s).rsp.rv = rv := rfl
@[simp] theorem respond_rsLen : (respond st rv n rs ri s).rsp.rsLen = n := rfl
@[simp] theorem respond_rs : (respond st rv n rs ri s).rsp.rs = rs := rfl
@[simp] theorem respond_ri : (respond st rv n rs ri s).rsp.ri = ri := rfl
@[simp] theorem respond_inputs : (respond st rv n rs ri s).inputs = s.inputs := rfl

@[simp] theorem raise_done : (raise e s).rsp.done = true := rfl
@[simp] theorem raise_status : (raise e s).rsp.status = e.code := rfl
@[simp] theorem raise_rv : (raise e s).rsp.rv = 0 := rfl
@[simp] theorem raise_rsLen : (raise e s).rsp.rsLen = 0 := rfl
@[simp] theorem raise_rs : (raise e s).rsp.rs = zeroChars := rfl
@[simp] theorem raise_ri : (raise e s).rsp.ri = 0 := rfl
@[simp] theorem raise_inputs : (raise e s).inputs = s.inputs := rfl

@[simp] theorem doneEmpty_done : (doneEmpty s).rsp.done = true := rfl
@[simp] theorem doneEmpty_status : (doneEmpty s).rsp.status = Status.ok.code := rfl
@[simp] theorem doneEmpty_rv : (doneEmpty s).rsp.rv = 0 := rfl
@[simp] theorem doneEmpty_rsLen : (doneEmpty s).rsp.rsLen = 0 := rfl
@[simp] theorem doneEmpty_rs : (doneEmpty s).rsp.rs = zeroChars := rfl
@[simp] theorem doneEmpty_ri : (doneEmpty s).rsp.ri = 0 := rfl
@[simp] theorem doneEmpty_inputs : (doneEmpty s).inputs = s.inputs := rfl

@[simp] theorem doneValue_done : (doneValue rv s).rsp.done = true := rfl
@[simp] theorem doneValue_status : (doneValue rv s).rsp.status = Status.ok.code := rfl
@[simp] theorem doneValue_rv : (doneValue rv s).rsp.rv = rv := rfl
@[simp] theorem doneValue_rsLen : (doneValue rv s).rsp.rsLen = 0 := rfl
@[simp] theorem doneValue_rs : (doneValue rv s).rsp.rs = zeroChars := rfl
@[simp] theorem doneValue_ri : (doneValue rv s).rsp.ri = 0 := rfl
@[simp] theorem doneValue_inputs : (doneValue rv s).inputs = s.inputs := rfl

@[simp] theorem doneString_done : (doneString rs s).rsp.done = true := rfl
@[simp] theorem doneString_status : (doneString rs s).rsp.status = Status.ok.code := rfl
@[simp] theorem doneString_rv : (doneString rs s).rsp.rv = 0 := rfl
@[simp] theorem doneString_rsLen : (doneString rs s).rsp.rsLen = 22 := rfl
@[simp] theorem doneString_rs : (doneString rs s).rsp.rs = rs := rfl
@[simp] theorem doneString_ri : (doneString rs s).rsp.ri = 0 := rfl
@[simp] theorem doneString_inputs : (doneString rs s).inputs = s.inputs := rfl

@[simp] theorem doneInt_done : (doneInt ri s).rsp.done = true := rfl
@[simp] theorem doneInt_status : (doneInt ri s).rsp.status = Status.ok.code := rfl
@[simp] theorem doneInt_rv : (doneInt ri s).rsp.rv = 0 := rfl
@[simp] theorem doneInt_rsLen : (doneInt ri s).rsp.rsLen = 0 := rfl
@[simp] theorem doneInt_rs : (doneInt ri s).rsp.rs = zeroChars := rfl
@[simp] theorem doneInt_ri : (doneInt ri s).rsp.ri = ri := rfl
@[simp] theorem doneInt_inputs : (doneInt ri s).inputs = s.inputs := rfl

@[simp] theorem resetLatch_rsp : (resetLatch s).rsp = Rsp.reset := rfl
@[simp] theorem resetLatch_inputs : (resetLatch s).inputs = s.inputs := rfl

@[simp] theorem reset_rsp : State.reset.rsp = Rsp.reset := rfl
@[simp] theorem reset_inputs : State.reset.inputs = [] := rfl

@[simp] theorem showPins_rsp (p : Pins) : (s.showPins p).rsp = s.rsp := rfl
@[simp] theorem showPins_inputs (p : Pins) : (s.showPins p).inputs = p :: s.inputs := rfl
@[simp] theorem present_rsp (c : Command) : (s.present c).rsp = s.rsp := rfl
@[simp] theorem present_inputs (c : Command) : (s.present c).inputs = c.pins :: s.inputs := rfl
@[simp] theorem withFetchWord_rsp (nbits w : Nat) : (s.withFetchWord nbits w).rsp = s.rsp := rfl

/-- A response does not depend on the state it replaces, but for the pending inputs (`10_state.md` R12: "there is no
partial update"). -/
theorem respond_eq_of_inputs (s' : State) (h : s.inputs = s'.inputs) :
    respond st rv n rs ri s = respond st rv n rs ri s' := by
  simp [respond, h]

end Sys2Proof.Machine
end

