-- ==== Sys2Proof/Laws/Ops.lean ====
section
/-! SUPPORT. What sampling an edge can do, and what is on the pins of a command. -/

namespace Sys2Proof.Machine

theorem requestOf_reset (p : Pins) (h : p.rst = true) : requestOf p = .reset := by simp [requestOf, h]

theorem requestOf_command (p : Pins) (hr : p.rst = false) (hv : p.cmdValid = true) :
    requestOf p = .command p.command := by simp [requestOf, hr, hv]

theorem requestOf_idle (p : Pins) (hr : p.rst = false) (hv : p.cmdValid = false) : requestOf p = .idle := by
  simp [requestOf, hr, hv]

theorem sample_nil (s : State) (h : s.inputs = []) : sample s = (.idle, s) := by simp [sample, h]

theorem sample_cons (s : State) (p : Pins) (rest : List Pins) (h : s.inputs = p :: rest) :
    sample s = (requestOf p, { s with inputs := rest }) := by simp [sample, h]

@[simp] theorem pins_rst (c : Command) : c.pins.rst = false := rfl
@[simp] theorem pins_cmdValid (c : Command) : c.pins.cmdValid = true := rfl

/-- `raise` leaves no result behind: the one lemma about an error (`60_exceptions.md` R155). -/
theorem raise_eq (e : Status) (s : State) :
    raise e s = { s with rsp := ⟨true, e.code, 0, 0, zeroChars, 0⟩ } := rfl

end Sys2Proof.Machine
end

