-- ==== Sys2Proof/Laws/PerInstr.lean ====
section
/-! SUPPORT. Statements for all instructions, one lemma per constructor.
`EncodedOpcode`: an instruction is well formed and its command carries the operation code of `30_encoding.md` R52. -/

namespace Sys2Proof.Laws.EncodedOpcode

def Statement (i : Instr) : Prop := i.wellFormed = true ∧ (encode i).op = i.opcode

theorem enc (value : Value) : Statement (.enc value) := ⟨rfl, rfl⟩
theorem dec (len : Len) (chars : Chars) : Statement (.dec len chars) := ⟨rfl, rfl⟩
theorem val (len : Len) (chars : Chars) : Statement (.val len chars) := ⟨rfl, rfl⟩
theorem pk64 (int : IntWord) : Statement (.pk64 int) := ⟨rfl, rfl⟩
theorem up64 (value : Value) : Statement (.up64 value) := ⟨rfl, rfl⟩
theorem pk32 (int : IntWord) : Statement (.pk32 int) := ⟨rfl, rfl⟩
theorem up32 (value : Value) : Statement (.up32 value) := ⟨rfl, rfl⟩
theorem rsvd7 : Statement .rsvd7 := ⟨rfl, rfl⟩

end Sys2Proof.Laws.EncodedOpcode
end

