-- ==== Sys2Proof/Laws/Script.lean ====
section
/-! SUPPORT. How a host sequence goes on after a line, and what the operands of a line are. -/

namespace Sys2Proof.Script

open Sys2Proof.Machine

theorem runUntilError_cons (l : Line) (rest : List Line) (s t : State) (h : runLine l s = .next t) :
    runUntilError (l :: rest) s =
      if t.rsp.status = Status.ok.code then runUntilError rest t else .next t := by
  simp only [runUntilError, h]

theorem runUntilError_singleton (l : Line) (s : State) : runUntilError [l] s = runLine l s := by
  cases h : runLine l s with
  | next t =>
    rw [runUntilError_cons l [] s t h]
    by_cases ht : t.rsp.status = Status.ok.code
    · rw [if_pos ht]; rfl
    · rw [if_neg ht]
  | fault r => cases r
  | refused r => simp only [runUntilError, h]

@[simp] theorem runItem_line (l : Line) (s : State) : runItem (.line l) s = runLine l s := rfl

@[simp] theorem runItem_pseudo (p : Pseudo) (s : State) :
    runItem (.pseudo p) s = runUntilError p.expand s := rfl

end Sys2Proof.Script
end

