-- ==== Sys2Proof/Tests/Slice0.lean ====
section
/-! SUPPORT. Tests. Expected results are those of `spec/95_test_vectors.md` (the vector's name stands in the comment)
or hand calculation from the rule named. After them, a witness for the hypotheses of each statement of
`Certificates/Slice0/Obligations.lean` that has any. -/

namespace Sys2Proof.Tests

open Sys2Proof.Machine Sys2Proof.Script

/-- 22 cells from their codes. -/
def cells (l : List Nat) : Chars := Vector.ofFn fun k => BitVec.ofNat 8 (l.getD k.val 0)

/-- The string `01psB8wRo$Y00000000005` (S1). -/
def s1 : Chars :=
  cells [0x30, 0x31, 0x70, 0x73, 0x42, 0x38, 0x77, 0x52, 0x6F, 0x24, 0x59,
         0x30, 0x30, 0x30, 0x30, 0x30, 0x30, 0x30, 0x30, 0x30, 0x30, 0x35]

/-- The value of S1. -/
def v1 : Value := 0x01cf62c8e9bcbf880000000000000005

/-- The string `4000000000000000000000` (S7). -/
def four : Chars := allZeroString.set 0 0x34

/-- The string `400000000000000000000!` (TD29). -/
def fourBang : Chars := four.set 21 0x21

/-- The state a step or a meaning answers. -/
def after (o : Host.Outcome State Fault Refusal) : Option State :=
  match o with
  | .next t => some t
  | .fault _ => none
  | .refused _ => none

def rspAfter (o : Host.Outcome State Fault Refusal) : Option Rsp := (after o).map State.rsp

def statusAfter (o : Host.Outcome State Fault Refusal) : Option StatusCode := (rspAfter o).map Rsp.status

/-! ## Well-formedness: each check refuses an ill-formed term -/

theorem test_wf_hex_value_of_31_digits : Line.wellFormed (.enc (.hex (List.replicate 31 0))) = false := by decide
theorem test_wf_hex_value_of_32_digits : Line.wellFormed (.enc (.hex (List.replicate 32 0))) = true := by decide
theorem test_wf_pk64_above_range : Line.wellFormed (.pk64 (.decimal (2 ^ 63))) = false := by decide
theorem test_wf_pk64_below_range : Line.wellFormed (.pk64 (.decimal (-2 ^ 63 - 1))) = false := by decide
theorem test_wf_pk32_above_range : Line.wellFormed (.pk32 (.decimal (2 ^ 31))) = false := by decide
theorem test_wf_pk32_least : Line.wellFormed (.pk32 (.decimal (-2 ^ 31))) = true := by decide
theorem test_wf_hex_integer_without_digits : Line.wellFormed (.pk64 (.hex [])) = false := by decide
theorem test_wf_hex_integer_of_17_digits : Line.wellFormed (.pk64 (.hex (List.replicate 17 0))) = false := by decide
theorem test_wf_pk32_pattern_of_33_bits : Line.wellFormed (.pk32 (.hex [1, 0, 0, 0, 0, 0, 0, 0, 0])) = false := by
  decide
theorem test_wf_pseudo_out_of_range : Item.wellFormed (.pseudo (.enci32 (.decimal (2 ^ 31)))) = false := by decide

/-! ## Decoding: every constructor by a word written out from R50 and R52; the port places are log 3 -/

theorem test_decode_enc : decodeTableWord 384
    (0x01cf62c8e9bcbf880000000000000005 <<< 3 + 0b000) = some (.enc v1) := by decide
theorem test_decode_dec : decodeTableWord 384
    (0x30317073423877526F24593030303030303030303035 <<< 139 + 22 <<< 131 + 0b001) = some (.dec 22 s1) := by decide
theorem test_decode_val : decodeTableWord 384
    (0x34303030303030303030303030303030303030303030 <<< 139 + 22 <<< 131 + 0b010) = some (.val 22 four) := by decide
theorem test_decode_pk64 : decodeTableWord 384 (0xFFFFFFFFF8A432EB <<< 315 + 0b011) =
    some (.pk64 0xFFFFFFFFF8A432EB) := by decide
theorem test_decode_up64 : decodeTableWord 384 (0x75BCD15 <<< 3 + 0b100) = some (.up64 0x75BCD15) := by decide
theorem test_decode_pk32 : decodeTableWord 384 (0xDEADBEEF0000001A <<< 315 + 0b101) =
    some (.pk32 0xDEADBEEF0000001A) := by decide
theorem test_decode_up32 : decodeTableWord 384 (0x80000000 <<< 3 + 0b110) = some (.up32 0x80000000) := by decide
theorem test_decode_rsvd7 : decodeTableWord 8 0b111 = some .rsvd7 := by decide

/-- The character port of R61: cell 0 in bits 175..168, cell 21 in bits 7..0. -/
theorem test_decode_pins : decode (Pins.command
    ⟨false, true, 0b001, 0, 22, 0x30317073423877526F24593030303030303030303035, 0⟩) = .dec 22 s1 := by decide

theorem test_decode_beyond_command : decodeNat (1 <<< 379) = .error .beyondCommand := by rfl

/-! ## The instructions -/

/-- TE8: every group non-trivial, `018qLdYQlDxm4ZHMU9gytl`. -/
theorem test_enc_TE8 : (rspAfter (exec (.enc 0x0123456789abcdef0123456789abcdef) State.reset)).map Rsp.rs =
    some (cells [0x30, 0x31, 0x38, 0x71, 0x4C, 0x64, 0x59, 0x51, 0x6C, 0x44, 0x78, 0x6D,
                 0x34, 0x5A, 0x48, 0x4D, 0x55, 0x39, 0x67, 0x79, 0x74, 0x6C]) := by decide

/-- TE13: nil refused. -/
theorem test_enc_TE13 : rspAfter (exec (.enc 0) State.reset) = some ⟨true, 4, 0, 0, zeroChars, 0⟩ := by decide

/-- TD9: `2abcdefghijklmnopqrstu`. -/
theorem test_dec_TD9 : rspAfter (exec (.dec 22 (cells [0x32, 0x61, 0x62, 0x63, 0x64, 0x65, 0x66, 0x67, 0x68, 0x69,
      0x6A, 0x6B, 0x6C, 0x6D, 0x6E, 0x6F, 0x70, 0x71, 0x72, 0x73, 0x74, 0x75])) State.reset) =
    some ⟨true, 0, 0xa49669e8a6aaecb6ebf0c72cf4d76df8, 0, zeroChars, 0⟩ := by decide

/-- TD10: `1vwxyz_$MNOPQRSTUVWXYZ`. -/
theorem test_dec_TD10 : (rspAfter (exec (.dec 22 (cells [0x31, 0x76, 0x77, 0x78, 0x79, 0x7A, 0x5F, 0x24, 0x4D, 0x4E,
      0x4F, 0x50, 0x51, 0x52, 0x53, 0x54, 0x55, 0x56, 0x57, 0x58, 0x59, 0x5A])) State.reset)).map Rsp.rv =
    some 0x79ebbf3dfbf59761969b71d79f8218a3 := by decide

/-- TV7 and TV8: the leading digit, and that a foreign character comes first. -/
theorem test_val_TV7_TV8 : statusAfter (exec (.val 22 four) State.reset) = some 3 ∧
    statusAfter (exec (.val 22 fourBang) State.reset) = some 2 := by decide

/-- TV6 and TV4. -/
theorem test_val_TV6_TV4 : statusAfter (exec (.val 23 allZeroString) State.reset) = some 1 ∧
    statusAfter (exec (.val 22 (allZeroString.set 0 0x33)) State.reset) = some 0 := by decide

/-- TK10. -/
theorem test_pk64_TK10 : (rspAfter (exec (.pk64 0xFFFFFFFFF8A432EB) State.reset)).map Rsp.rv =
    some 0x0000000000000000fffffffff8a432eb := by decide

/-- TU12 and TU14. -/
theorem test_up64_TU12_TU14 :
    (rspAfter (exec (.up64 0x12345678123456781234567812345678) State.reset)).map Rsp.ri = some 0x1234567812345678 ∧
    (rspAfter (exec (.up64 0x00000000000000010000000000000000) State.reset)).map Rsp.ri = some 0 := by decide

/-- TQ5 and TQ8. -/
theorem test_pk32_TQ5_TQ8 :
    (rspAfter (exec (.pk32 0x80000000) State.reset)).map Rsp.rv = some 0x0000000000000000ffffffff80000000 ∧
    (rspAfter (exec (.pk32 0xDEADBEEF0000001A) State.reset)).map Rsp.rv = some 0x1a := by decide

/-- TW7 and TW6. -/
theorem test_up32_TW7_TW6 :
    (rspAfter (exec (.up32 0x0000000000000000ffffffff7fffffff) State.reset)).map Rsp.ri = some 0x7FFFFFFF ∧
    (rspAfter (exec (.up32 0x80000000) State.reset)).map Rsp.ri = some 0xFFFFFFFF80000000 := by decide

/-- TX2: code 7 with every port driven. -/
theorem test_rsvd7_TX2 : rspAfter (exec (decode ⟨7, v1, 22, s1, 0x1A⟩) State.reset) =
    some ⟨true, 7, 0, 0, zeroChars, 0⟩ := by decide

/-! ## Edges, outputs, the host's script -/

/-- TY6: a reset edge after a response; the command presented with it is not executed (R180). -/
theorem test_reset_TY6 :
    after (step ⟨⟨true, 0, 0, 22, s1, 0⟩, [⟨true, true, 0, v1, 0, 0, 0⟩]⟩) = some State.reset := by decide

/-- An edge without `cmd_valid` (R61). -/
theorem test_idle_edge : (rspAfter (step ⟨⟨true, 0, 0, 0, zeroChars, 5⟩, [⟨false, false, 4, v1, 0, 0, 0⟩]⟩)).map Rsp.ri =
    some 5 := by decide

/-- The first instruction after reset, as the host places it. -/
theorem test_withFetchWord : rspAfter (step (State.reset.withFetchWord 8 0b111)) =
    some ⟨true, 7, 0, 0, zeroChars, 0⟩ := by decide

/-- The character output port (R61). -/
theorem test_outputs_rspChars : (outputs ⟨⟨true, 0, 0, 22, s1, 0⟩, []⟩).rspChars =
    0x30317073423877526F24593030303030303030303035 := by decide

/-- A quoted string of 300 cells shows length 255 (R55). -/
theorem test_quotedLen_saturates : quotedLen (List.replicate 300 0x30) = 255 := by
  rw [quotedLen, List.length_replicate]; rfl

/-- The text `01cf62c8-e9bc-bf88-0000-000000000005` (R33). -/
theorem test_uuid_text : ValueArg.assemble Rsp.reset
    (.uuid ⟨#v[0, 1, 0xc, 0xf, 6, 2, 0xc, 8], #v[0xe, 9, 0xb, 0xc], #v[0xb, 0xf, 8, 8], #v[0, 0, 0, 0],
      #v[0, 0, 0, 0, 0, 0, 0, 0, 0, 0, 0, 5]⟩) = v1 := by decide

/-- P5 against the pseudo-instruction: the second line of two plain lines hides the error. -/
theorem test_script_P5 :
    statusAfter (runLine (.up64 .rv) ⟨⟨true, 3, 0, 0, zeroChars, 0⟩, []⟩) = some 0 ∧
    statusAfter (runItem (.pseudo (.deci64 (.quoted (0x34 :: List.replicate 21 0x30)))) State.reset) = some 3 := by
  decide

/-- A script goes on after a pseudo-instruction that ended with an error, and after a reset (P4, P6; log 12). -/
theorem test_script_goes_on :
    statusAfter (run [.pseudo (.enci64 (.decimal 0)), .line .rsvd7] State.reset) = some 7 ∧
    (after (run [.line .rsvd7, .reset] State.reset)) = some State.reset := by decide

/-! ## Witnesses: states and operands that meet the hypotheses of each statement -/

/-- A state whose next edge resets and whose edge after that presents a command, and one whose next edge is idle. -/
def twoEdges : State := ⟨⟨true, 3, 0, 0, zeroChars, 0⟩, [resetPins, (encode .rsvd7).pins]⟩
def idleEdge : State := ⟨⟨true, 0, 0, 0, zeroChars, 5⟩, [⟨false, false, 7, 0, 0, 0, 0⟩]⟩

theorem witness_ResetLatchIsAllZero : validString 22 allZeroString := by decide

theorem witness_ResetEdgeWipesLatch :
    twoEdges.inputs = resetPins :: [(encode .rsvd7).pins] ∧ resetPins.rst = true ∧
    (encode .rsvd7).pins.rst = false ∧ (encode .rsvd7).pins.cmdValid = true := by decide

theorem witness_IdleEdgeKeepsLatch :
    idleEdge.inputs = ⟨false, false, 7, 0, 0, 0, 0⟩ :: [] ∧ State.reset.inputs = [] := by decide

theorem witness_StepRunsPresentedCommand :
    (State.reset.present (encode (.enc v1))).inputs = (encode (.enc v1)).pins :: [] ∧
    (encode (.enc v1)).pins.rst = false ∧ (encode (.enc v1)).pins.cmdValid = true := by decide

theorem witness_PresentedWordRuns : decodeTableWord 8 0b111 = some .rsvd7 := by decide

theorem witness_OpcodeAloneSelectsOperation :
    (encode (.enc 1)).op = (encode (.enc 2)).op ∧ encode (.enc 1) ≠ encode (.enc 2) := by decide

theorem witness_DecodeOfEncodeIsIdentity : (Instr.dec 22 s1).wellFormed = true := by decide

/-- One pair of different commands for each format: ENC with unread ports, DEC with a wrong length, PK64, UP64 with
different high halves, PK32 and UP32 with different unread halves, code 7. -/
theorem witness_UnreadPortsAreIgnored :
    agreeOnRead ⟨0, v1, 0, zeroChars, 0⟩ ⟨0, v1, 99, s1, 7⟩ ∧
    agreeOnRead ⟨1, 0, 21, zeroChars, 0⟩ ⟨1, v1, 21, s1, 7⟩ ∧ agreeOnRead ⟨2, 0, 22, s1, 0⟩ ⟨2, v1, 22, s1, 7⟩ ∧
    agreeOnRead ⟨3, 0, 0, zeroChars, 5⟩ ⟨3, v1, 22, s1, 5⟩ ∧
    agreeOnRead ⟨4, 0x10000000000000005, 0, zeroChars, 0⟩ ⟨4, 5, 22, s1, 7⟩ ∧
    agreeOnRead ⟨5, 0, 0, zeroChars, 0x100000005⟩ ⟨5, v1, 22, s1, 5⟩ ∧
    agreeOnRead ⟨6, 0x100000005, 0, zeroChars, 0⟩ ⟨6, 5, 22, s1, 7⟩ ∧
    agreeOnRead ⟨7, 0, 0, zeroChars, 0⟩ ⟨7, v1, 22, s1, 7⟩ := by
  refine ⟨?_, ?_, ?_, ?_, ?_, ?_, ?_, ?_⟩ <;> simp [agreeOnRead]

/-- The ends of the three ranges, and two digits with the same cell. -/
theorem witness_AlphabetTable :
    (9 : Digit).val < 10 ∧ 10 ≤ (10 : Digit).val ∧ (35 : Digit).val < 36 ∧ 36 ≤ (36 : Digit).val ∧
    (61 : Digit).val < 62 ∧ alpha 9 = alpha 9 := by decide

/-- Both ends of every range. -/
theorem witness_groupsInRange : groupsInRange ⟨0, 0, 0, 0, 0, 0⟩ ∧
    groupsInRange ⟨255, 16777215, 16777215, 16777215, 16777215, 16777215⟩ := by decide

theorem witness_JoinIsTheInverseOfSplit : ∀ b : Bytes, join (split b) = b := join_split

theorem witness_FoldReadsBackRender : 16777215 < 64 ^ 4 ∧ (3 : Digit).val ≤ 3 := by decide

theorem witness_EncodeGivesCompactString : (encode (.enc v1)).op = 0b000#3 ∧ v1 ≠ 0#128 := by decide

/-- The digits of S1, and of the same string begun with the largest legal first digit. -/
def d1 : Digits :=
  #v[0, 1, 51, 54, 11, 8, 58, 27, 50, 63, 34, 0, 0, 0, 0, 0, 0, 0, 0, 0, 0, 5]

theorem witness_DecodeGivesValue :
    (encode (.dec 22 s1)).op = 0b001#3 ∧ (∀ k : Fin 22, index s1[k] = some d1[k]) ∧ d1[0].val ≤ 3 ∧
    (∀ k : Fin 22, index (s1.set 0 0x33)[k] = some (d1.set 0 3)[k]) ∧ (d1.set 0 3)[0].val ≤ 3 ∧
    check 22 four ≠ .ok ∧
    (∀ k : Fin 22, index (allZeroString.set 0 0x33)[k] ≠ none) ∧ index (allZeroString.set 0 0x33)[0] = some 3 ∧
    (∀ k : Fin 22, index four[k] ≠ none) ∧ index four[0] = some 4 := by decide

theorem witness_ValidateReportsCheck : (encode (.val 22 s1)).op = 0b010#3 := by decide

theorem witness_CheckTestsInOrder :
    (21 : Len).toNat ≠ 22 ∧ (23 : Len).toNat ≠ 22 ∧ (22 : Len).toNat = 22 ∧
    (∃ k : Fin 22, index fourBang[k] = none) ∧
    (∀ k : Fin 22, index four[k] ≠ none) ∧ ∃ d, index four[0] = some d ∧ 3 < d.val :=
  ⟨by decide, by decide, by decide, ⟨21, by decide⟩, by decide, 4, by decide, by decide⟩

theorem witness_ValidStringsCounted : validString 22 s1 ∧ validString 22 (allZeroString.set 0 0x33) := by decide

theorem witness_InvalidLengthExactlyOnWrongLength : (0 : Len) ≠ 22#8 ∧ (255 : Len) ≠ 22#8 := by decide

theorem witness_OutOfRangeExactlyOnLeadingDigit : statusAfter (exec (.dec 22 four) State.reset) = some 3 := by decide

theorem witness_InvalidValueExactlyOnNil : statusAfter (exec (.enc 0) State.reset) = some 4 ∧
    (0 : Value) = 0#128 := by decide

theorem witness_Packer_opcodes : (encode (.pk64 5)).op = 0b011#3 ∧ (encode (.up64 5)).op = 0b100#3 ∧
    (encode (.pk32 5)).op = 0b101#3 ∧ (encode (.up32 5)).op = 0b110#3 ∧ (encode .rsvd7).op = 0b111#3 := by decide

/-- The ends of the 32-bit range. -/
theorem witness_Pack32SignExtends : -2 ^ 31 ≤ (-2147483648 : Int) ∧ (2147483647 : Int) < 2 ^ 31 := by decide

theorem witness_Integers32OnPorts64 :
    (0xDEADBEEF0000001A : IntWord).extractLsb' 0 32 = (0x1A : IntWord).extractLsb' 0 32 := by decide

theorem witness_EndingsOfEachOperation : Status.outOfRange ∈ mayEndWith 0b001#3 ∧
    Status.illegalOp ∈ mayEndWith 0b111#3 := by decide

/-- Each hypothesis on a status is met: 1, 2, 3, 4, 7 and 0 (R150, R155, R160). -/
theorem witness_StatusNumbersAndWriters :
    statusAfter (exec (.dec 21 s1) State.reset) = some 1 ∧ statusAfter (exec (.val 22 fourBang) State.reset) = some 2 ∧
    statusAfter (exec (.dec 22 four) State.reset) = some 3 ∧ statusAfter (exec (.enc 0) State.reset) = some 4 ∧
    statusAfter (exec .rsvd7 State.reset) = some 7 ∧ (0b110#3 : OpCode) ≠ 0b111#3 := by decide

/-- Each operation that can end `OK` does (R60). -/
theorem witness_UnproducedFieldsAreZero :
    statusAfter (exec (.enc 1) State.reset) = some 0 ∧ statusAfter (exec (.dec 22 s1) State.reset) = some 0 ∧
    statusAfter (exec (.val 22 s1) State.reset) = some 0 ∧ statusAfter (exec (.pk64 1) State.reset) = some 0 ∧
    statusAfter (exec (.up64 1) State.reset) = some 0 ∧ statusAfter (exec (.pk32 1) State.reset) = some 0 ∧
    statusAfter (exec (.up32 1) State.reset) = some 0 := by decide

/-- A well-formed latch and a step from it; and latches that are not well formed, so that the invariant says
something. -/
theorem witness_StepKeepsLatchWellFormed :
    latchWf (⟨true, 0, 0, 22, s1, 0⟩ : Rsp) ∧
    (after (step (State.present (encode (.enc v1)) ⟨⟨true, 0, 0, 22, s1, 0⟩, []⟩))).isSome = true ∧
    ¬ latchWf (⟨true, 5, 0, 0, zeroChars, 0⟩ : Rsp) ∧ ¬ latchWf (⟨true, 3, 1, 0, zeroChars, 0⟩ : Rsp) ∧
    ¬ latchWf (⟨true, 0, 0, 22, four, 0⟩ : Rsp) := by
  refine ⟨by decide, by decide, by decide, by decide, by decide⟩

/-- A value that ENC takes, and digits with the least and the largest legal first digit. -/
theorem witness_CodecIsBase64Expansion :
    v1 ≠ 0#128 ∧ (∀ k : Fin 22, index s1[k] = some d1[k]) ∧ d1[0].val ≤ 3 ∧
    (∀ k : Fin 22, index (s1.set 0 0x33)[k] = some (d1.set 0 3)[k]) ∧ (d1.set 0 3)[0].val ≤ 3 ∧
    2 ≤ (2 : Fin 22).val := by decide

theorem witness_CodecRoundTrips : validString 22 s1 ∧ s1 ≠ allZeroString := by decide

/-- The ends of the 64-bit range. -/
theorem witness_IntegerRoundTrips : -2 ^ 63 ≤ (-9223372036854775808 : Int) ∧
    (9223372036854775807 : Int) < 2 ^ 63 ∧ (9223372036854775807 : Int) ≠ 0 := by decide

theorem witness_StringsOfAnyLengthAreCarried :
    (21 : Fin 22).val < (List.replicate 22 (0x30 : Cell)).length ∧ (List.replicate 23 (0x30 : Cell)).length ≠ 22 ∧
    (254 : Len) ≠ 22#8 := by decide

theorem witness_IntegersAreAssembledAsPatterns :
    (IntArg.decimal (-2 ^ 63)).wellFormed 64 = true ∧ (IntArg.decimal (2 ^ 31 - 1)).wellFormed 32 = true ∧
    (IntArg.hex (List.replicate 16 0xf)).wellFormed 64 = true ∧
    (IntArg.hex (List.replicate 8 0xf)).wellFormed 32 = true := by decide

theorem witness_PseudoInstructionsStopAtFirstError :
    statusAfter (runLine (.dec (.quoted [])) State.reset) = some 1 ∧
    statusAfter (runLine (.pk64 (.decimal 0)) State.reset) = some 0 := by decide

theorem witness_ErrorIsLostWithoutTheTest : ∃ t, runLine (.dec (.quoted [])) State.reset = .next t ∧
    t.rsp.status ≠ Status.ok.code := ⟨raise .invalidLength State.reset, rfl, by decide⟩

end Sys2Proof.Tests
end

/-! ## Proofs: reset, the response as a function of the command, the integer ports -/

namespace Sys2Proof.Machine

/-! ### What `exec` answers, arm by arm -/

theorem exec_enc_nil (s : State) : exec (.enc 0#128) s = .next (raise .invalidValue s) := rfl

theorem exec_enc_of_ne {v : Value} (hv : v ≠ 0#128) (s : State) :
    exec (.enc v) s = .next (doneString (compactString v) s) := by
  simp [exec, execEnc, isNil, hv]

theorem exec_dec_of_error {len : Len} {chars : Chars} {e : Status} (h : readString len chars = .error e)
    (s : State) : exec (.dec len chars) s = .next (raise e s) := by
  simp [exec, execDec, h]

theorem exec_dec_of_ok {len : Len} {chars : Chars} {d : Digits} (h : readString len chars = .ok d)
    (s : State) : exec (.dec len chars) s = .next (doneValue (valueOfDigits d) s) := by
  simp [exec, execDec, h]

theorem exec_val_of_error {len : Len} {chars : Chars} {e : Status} (h : readString len chars = .error e)
    (s : State) : exec (.val len chars) s = .next (raise e s) := by
  simp [exec, execVal, h]

theorem exec_val_of_ok {len : Len} {chars : Chars} {d : Digits} (h : readString len chars = .ok d)
    (s : State) : exec (.val len chars) s = .next (doneEmpty s) := by
  simp [exec, execVal, h]

@[simp] theorem exec_pk64 (n : IntWord) (s : State) :
    exec (.pk64 n) s = .next (doneValue (zext128 n) s) := rfl

@[simp] theorem exec_up64 (v : Value) (s : State) : exec (.up64 v) s = .next (doneInt (low64 v) s) := rfl

@[simp] theorem exec_pk32 (n : IntWord) (s : State) :
    exec (.pk32 n) s = .next (doneValue (zext128 (sext64 (int32 n))) s) := rfl

@[simp] theorem exec_up32 (v : Value) (s : State) :
    exec (.up32 v) s = .next (doneInt (sext64 (low32 v)) s) := rfl

@[simp] theorem exec_rsvd7 (s : State) : exec .rsvd7 s = .next (raise .illegalOp s) := rfl

/-- Every instruction puts one response in the latch, chosen before the state it is executed from (`10_state.md`
R19). -/
theorem exec_eq_respond (i : Instr) : ∃ (st : Status) (rv : Value) (n : Len) (rs : Chars) (ri : IntWord),
    ∀ s : State, exec i s = .next (respond st rv n rs ri s) := by
  cases i with
  | enc v =>
    by_cases hv : v = 0#128
    · subst hv; exact ⟨_, _, _, _, _, exec_enc_nil⟩
    · exact ⟨_, _, _, _, _, exec_enc_of_ne hv⟩
  | dec len chars =>
    cases h : readString len chars with
    | error e => exact ⟨_, _, _, _, _, exec_dec_of_error h⟩
    | ok d => exact ⟨_, _, _, _, _, exec_dec_of_ok h⟩
  | val len chars =>
    cases h : readString len chars with
    | error e => exact ⟨_, _, _, _, _, exec_val_of_error h⟩
    | ok d => exact ⟨_, _, _, _, _, exec_val_of_ok h⟩
  | pk64 n => exact ⟨_, _, _, _, _, exec_pk64 n⟩
  | up64 v => exact ⟨_, _, _, _, _, exec_up64 v⟩
  | pk32 n => exact ⟨_, _, _, _, _, exec_pk32 n⟩
  | up32 v => exact ⟨_, _, _, _, _, exec_up32 v⟩
  | rsvd7 => exact ⟨_, _, _, _, _, exec_rsvd7⟩

/-- The latch an instruction leaves does not depend on the state it is executed from, and it shows a completed
command. -/
theorem exec_eq_latch (i : Instr) :
    ∃ r : Rsp, r.done = true ∧ ∀ s : State, exec i s = .next { s with rsp := r } := by
  obtain ⟨st, rv, n, rs, ri, h⟩ := exec_eq_respond i
  exact ⟨⟨true, st.code, rv, n, rs, ri⟩, rfl, h⟩

/-- VAL of a valid string completes `OK` with no result (`40_codec.md` R93). -/
theorem exec_val_of_validString {len : Len} {chars : Chars} (h : validString len chars) (s : State) :
    exec (.val len chars) s = .next (doneEmpty s) := by
  obtain ⟨d, hd⟩ := (validString_iff_readString len chars).1 h
  exact exec_val_of_ok hd s

/-- Only `DONE` tells the latch of an `OK` without results from the reset latch (`10_state.md` R21). -/
theorem doneEmpty_rsp_eq_reset (s : State) : (doneEmpty s).rsp = { Rsp.reset with done := true } := rfl

/-! ### A command presented at an edge -/

/-- The block reads off the input signals the command the host put on them. -/
@[simp] theorem command_pins (c : Command) : c.pins.command = c := by
  simp [Pins.command, Command.pins]

@[simp] theorem sample_present (s : State) (c : Command) : sample (s.present c) = (.command c, s) := by
  rw [sample_cons _ _ _ (present_inputs s c), requestOf_command _ (pins_rst c) (pins_cmdValid c), command_pins]
  rfl

/-- The edge at which a command is presented executes it from the state before the presentation. -/
@[simp] theorem step_present (s : State) (c : Command) : step (s.present c) = exec (decode c) s := by
  simp only [step, sample_present]

/-! ### The signs of the integer ports -/

theorem getLsbD_low64 (v : Value) (j : Nat) : (low64 v).getLsbD j = (decide (j < 64) && v.getLsbD j) := by
  simp [low64]

theorem toNat_low64 (v : Value) : (low64 v).toNat = v.toNat % 2 ^ 64 := by simp [low64]

/-- The 64-bit integer in the low half of a value, read as signed: bit 63 is its sign (`10_state.md` R20). -/
theorem toInt_low64 (v : Value) : (low64 v).toInt =
    if v.getLsbD 63 then (v.toNat % 2 ^ 64 : Int) - 2 ^ 64 else (v.toNat % 2 ^ 64 : Int) := by
  have hmsb : (low64 v).msb = v.getLsbD 63 := by
    rw [BitVec.msb_eq_getLsbD_last, getLsbD_low64]; rfl
  simp [BitVec.toInt_eq_msb_cond, hmsb, toNat_low64]

/-- The bits of a sign-extended integer from bit 31 up are all its sign. -/
theorem getLsbD_sext64_of_ge (n : BitVec 32) {j : Nat} (h31 : 31 ≤ j) (h64 : j < 64) :
    (sext64 n).getLsbD j = n.msb := by
  rw [sext64, BitVec.getLsbD_signExtend, BitVec.msb_eq_getLsbD_last]
  obtain rfl | h32 : j = 31 ∨ 32 ≤ j := by omega
  · simp
  · simp [h64, Nat.not_lt.2 h32]

@[simp] theorem toInt_sext64 (n : BitVec 32) : (sext64 n).toInt = n.toInt :=
  BitVec.toInt_signExtend_of_le (by decide)

/-! ### The statements -/

/-- Settles O37: the sign of the low half for UP64, the operand of PK32 for PK32, and sign extension for UP32. -/
theorem integers32OnPorts64 : Obligations.Integers32OnPorts64 := by
  refine ⟨fun v s => ⟨_, exec_up64 v s, ?_⟩, fun n n' s h => ⟨_, exec_pk32 n s, ?_⟩,
    fun v s => ⟨_, exec_up32 v s, fun j => ?_, ?_⟩⟩
  · rw [doneInt_ri, toInt_low64]
  · have hlow : int32 n = int32 n' := h
    rw [exec_pk32, hlow]
  · rw [doneInt_ri, getLsbD_sext64_of_ge _ (by omega) (by omega), getLsbD_sext64_of_ge _ (by omega) (by omega)]
  · rw [doneInt_ri, toInt_sext64, low32]

/-- Settles O45: `exec` writes one latch per instruction, and an edge executes what is presented at it. -/
theorem responseIsFunctionOfCommand : Obligations.ResponseIsFunctionOfCommand := by
  refine ⟨exec_eq_latch, fun c => ?_⟩
  obtain ⟨r, hdone, hexec⟩ := exec_eq_latch (decode c)
  exact ⟨r, hdone, fun s => (step_present s c).trans (hexec s)⟩

/-- Settles O1: the reset latch field by field, and the latch VAL leaves on a valid string. -/
theorem resetLatchIsAllZero : Obligations.ResetLatchIsAllZero := by
  refine ⟨rfl, rfl, rfl, rfl, fun k => ?_, rfl, fun len chars s hvalid => ?_⟩
  · simp [Rsp.reset]
  · exact ⟨doneEmpty s, exec_val_of_validString hvalid s, doneEmpty_rsp_eq_reset s⟩

end Sys2Proof.Machine

/-! ## Proofs: the bytes of a value, the leading fields, the canonical text -/

namespace Sys2Proof.Machine

/-! ### The bytes of a value -/

theorem bytesOf_getLsbD (v : Value) (i j : Nat) (hi : i < 16) (hj : j < 8) :
    (bytesOf v)[i].getLsbD j = v.getLsbD (120 - 8 * i + j) := by
  rw [bytesOf_getElem v i hi, BitVec.getLsbD_extractLsb']
  simp [hj]

theorem byte_toNat_of_valueOf (b : Bytes) (i : Nat) (hi : i < 16) :
    b[i].toNat = (valueOf b).toNat / 2 ^ (120 - 8 * i) % 256 := by
  rw [← bytesOf_toNat _ i hi, bytesOf_valueOf]

/-- Settles O14: both directions bit by bit, and the two inverses. -/
theorem bytesNumberedFromTop : Obligations.BytesNumberedFromTop :=
  ⟨fun v i j => bytesOf_getLsbD v i j i.isLt j.isLt, fun b i j => valueOf_getLsbD b i j i.isLt j.isLt,
    valueOf_bytesOf, bytesOf_valueOf⟩

/-! ### The leading fields of a value -/

theorem field0_eq_toNat_extract (b : Bytes) : field0 b = ((valueOf b).extractLsb' 96 32).toNat := by
  simp only [field0, byte_toNat_of_valueOf b, BitVec.extractLsb'_toNat, Nat.shiftRight_eq_div_pow]
  omega

theorem field1_eq_toNat_extract (b : Bytes) : field1 b = ((valueOf b).extractLsb' 80 16).toNat := by
  simp only [field1, byte_toNat_of_valueOf b, BitVec.extractLsb'_toNat, Nat.shiftRight_eq_div_pow]
  omega

theorem field2_eq_toNat_extract (b : Bytes) : field2 b = ((valueOf b).extractLsb' 64 16).toNat := by
  simp only [field2, byte_toNat_of_valueOf b, BitVec.extractLsb'_toNat, Nat.shiftRight_eq_div_pow]
  omega

/-! ### The leading fields written back by `join` -/

theorem bigEndian_four_bytes {n : Nat} (hn : n < 2 ^ 32) :
    (BitVec.ofNat 8 (n / 16777216)).toNat * 16777216 + (BitVec.ofNat 8 (n / 65536 % 256)).toNat * 65536 +
      (BitVec.ofNat 8 (n / 256 % 256)).toNat * 256 + (BitVec.ofNat 8 (n % 256)).toNat = n := by
  simp only [BitVec.toNat_ofNat]
  omega

theorem bigEndian_two_bytes {n : Nat} (hn : n < 2 ^ 16) :
    (BitVec.ofNat 8 (n / 256)).toNat * 256 + (BitVec.ofNat 8 (n % 256)).toNat = n := by
  simp only [BitVec.toNat_ofNat]
  omega

theorem field0_join {g : Groups} (h0 : g.num0 ≤ 255) (h1 : g.num1 ≤ 16777215) :
    field0 (join g) = g.num0 * 16777216 + g.num1 :=
  bigEndian_four_bytes (by omega)

theorem field1_join {g : Groups} (h2 : g.num2 ≤ 16777215) : field1 (join g) = g.num2 / 256 :=
  bigEndian_two_bytes (by omega)

theorem field2_join {g : Groups} (h3 : g.num3 ≤ 16777215) :
    field2 (join g) = (g.num2 % 256) * 256 + g.num3 / 65536 :=
  bigEndian_two_bytes (by omega)

/-- Settles O15: the sums are the definitions; the fields of a value are bit slices of it; `join` writes each field
back byte by byte. -/
theorem leadingFieldsBigEndian : Obligations.LeadingFieldsBigEndian := by
  refine ⟨fun b => ⟨rfl, rfl, rfl⟩, fun v => ?_, fun g ⟨h0, h1, h2, h3, _, _⟩ => ?_⟩
  · rw [field0_eq_toNat_extract, field1_eq_toNat_extract, field2_eq_toNat_extract, valueOf_bytesOf]
    exact ⟨rfl, rfl, rfl⟩
  · exact ⟨field0_join h0 h1, field1_join h2, field2_join h3⟩

end Sys2Proof.Machine

namespace Sys2Proof.Script

open Sys2Proof.Machine

/-! ### The number that hex digits spell -/

@[simp] theorem hexNat_nil : hexNat [] = 0 := rfl

theorem hexNat_concat (l : List Nibble) (d : Nibble) : hexNat (l ++ [d]) = hexNat l * 16 + d.toNat := by
  simp [hexNat]

theorem hexNat_append (l m : List Nibble) : hexNat (l ++ m) = hexNat l * 16 ^ m.length + hexNat m := by
  induction m using List.reverseRecOn with
  | nil => simp
  | append_singleton m d ih =>
    rw [← List.append_assoc, hexNat_concat, ih, hexNat_concat, List.length_append, List.length_singleton]
    ring

theorem hexNat_lt (l : List Nibble) : hexNat l < 16 ^ l.length := by
  induction l using List.reverseRecOn with
  | nil => simp
  | append_singleton l d ih =>
    have hd := d.isLt
    rw [hexNat_concat, List.length_append, List.length_singleton, pow_succ]
    omega

theorem hexNat_toList_lt {n : Nat} (d : Vector Nibble n) : hexNat d.toList < 16 ^ n := by
  simpa using hexNat_lt d.toList

/-! ### The canonical text -/

theorem byteOf_toNat (high low : Nibble) : (byteOf high low).toNat = high.toNat * 16 + low.toNat := by
  rw [byteOf, BitVec.toNat_append, Nat.shiftLeft_eq, Nat.mul_comm, ← Nat.two_pow_add_eq_or_of_lt low.isLt]

theorem bytes_getElem (t : UuidText) (k : Nat) (hk : k < 16) :
    t.bytes[k] = byteOf t.digits[2 * k] t.digits[2 * k + 1] := by
  simp [UuidText.bytes]

theorem digits_toList (t : UuidText) : t.digits.toList =
    t.group0.toList ++ t.group1.toList ++ t.group2.toList ++ t.group3.toList ++ t.group4.toList := by
  have h := Vector.toList_append (xs := t.group0 ++ t.group1 ++ t.group2 ++ t.group3) (ys := t.group4)
  exact h.trans (by simp only [Vector.toList_append])

/-- The first `2k` digits of a text spell the first `k` bytes of its value (`20_memory.md` R33). -/
theorem hexNat_take_digits (t : UuidText) (k : Nat) (hk : k ≤ 16) :
    hexNat (t.digits.toList.take (2 * k)) = (valueOf t.bytes).toNat / 2 ^ (128 - 8 * k) := by
  induction k with
  | zero => simp [Nat.div_eq_of_lt (valueOf t.bytes).isLt]
  | succ k ih =>
    have hbyte := byte_toNat_of_valueOf t.bytes k (by omega)
    rw [bytes_getElem t k (by omega), byteOf_toNat] at hbyte
    have htake : t.digits.toList.take (2 * (k + 1)) =
        t.digits.toList.take (2 * k) ++ [t.digits[2 * k]] ++ [t.digits[2 * k + 1]] := by
      rw [Nat.mul_succ, List.take_add_one, List.take_add_one]
      simp [show 2 * k < 32 by omega, show 2 * k + 1 < 32 by omega]
    have hshift : (valueOf t.bytes).toNat / 2 ^ (128 - 8 * k) =
        (valueOf t.bytes).toNat / 2 ^ (120 - 8 * k) / 256 := by
      rw [Nat.div_div_eq_div_mul, show 128 - 8 * k = 120 - 8 * k + 8 by omega, Nat.pow_add]
    rw [htake, hexNat_concat, hexNat_concat, ih (by omega), hshift,
      show 128 - 8 * (k + 1) = 120 - 8 * k by omega]
    omega

/-- The 32 digits of a text spell its value. -/
theorem valueOf_bytes_toNat (t : UuidText) : (valueOf t.bytes).toNat = hexNat t.digits.toList := by
  have hall : t.digits.toList.take (2 * 16) = t.digits.toList := List.take_of_length_le (by simp)
  simpa [hall] using (hexNat_take_digits t 16 le_rfl).symm

/-- The value of a text, group by group. -/
theorem valueOf_bytes_toNat_groups (t : UuidText) : (valueOf t.bytes).toNat =
    hexNat t.group0.toList * 2 ^ 96 + hexNat t.group1.toList * 2 ^ 80 + hexNat t.group2.toList * 2 ^ 64 +
      hexNat (t.group3.toList ++ t.group4.toList) := by
  rw [valueOf_bytes_toNat, digits_toList]
  simp only [hexNat_append, Vector.length_toList]
  ring

/-- The three leading groups of a text are the leading fields of its value, the last two its low half
(`20_memory.md` R33). -/
theorem fields_of_groups (t : UuidText) :
    field0 t.bytes = hexNat t.group0.toList ∧ field1 t.bytes = hexNat t.group1.toList ∧
    field2 t.bytes = hexNat t.group2.toList ∧
    (valueOf t.bytes).toNat % 2 ^ 64 = hexNat (t.group3.toList ++ t.group4.toList) := by
  have hv := valueOf_bytes_toNat_groups t
  have h0 := hexNat_toList_lt t.group0
  have h1 := hexNat_toList_lt t.group1
  have h2 := hexNat_toList_lt t.group2
  have hlow : hexNat (t.group3.toList ++ t.group4.toList) < 16 ^ 16 := by
    simpa using hexNat_lt (t.group3.toList ++ t.group4.toList)
  simp only [field0_eq_toNat_extract, field1_eq_toNat_extract, field2_eq_toNat_extract,
    BitVec.extractLsb'_toNat, Nat.shiftRight_eq_div_pow]
  omega

/-- Settles O16: the nibbles of each byte, the groups of the value the digits spell, and the example text. -/
theorem canonicalTextToBytes : Obligations.CanonicalTextToBytes :=
  ⟨fun t k => bytes_getElem t k k.isLt, fields_of_groups, by decide⟩

end Sys2Proof.Script

/-! ## Proofs: decoding, the ports an operation reads, the fields it produces, the host's lines -/

namespace Sys2Proof

/-! ### What a command decodes to, code by code (`30_encoding.md` R52) -/

theorem opcode_cases (op : OpCode) :
    op = 0b000#3 ∨ op = 0b001#3 ∨ op = 0b010#3 ∨ op = 0b011#3 ∨
    op = 0b100#3 ∨ op = 0b101#3 ∨ op = 0b110#3 ∨ op = 0b111#3 := by
  revert op; decide

section

variable {c : Command}

theorem decode_eq_enc (h : c.op = 0b000#3) : decode c = .enc c.value := by simp [decode, h]
theorem decode_eq_dec (h : c.op = 0b001#3) : decode c = .dec c.len c.chars := by simp [decode, h]
theorem decode_eq_val (h : c.op = 0b010#3) : decode c = .val c.len c.chars := by simp [decode, h]
theorem decode_eq_pk64 (h : c.op = 0b011#3) : decode c = .pk64 c.int := by simp [decode, h]
theorem decode_eq_up64 (h : c.op = 0b100#3) : decode c = .up64 c.value := by simp [decode, h]
theorem decode_eq_pk32 (h : c.op = 0b101#3) : decode c = .pk32 c.int := by simp [decode, h]
theorem decode_eq_up32 (h : c.op = 0b110#3) : decode c = .up32 c.value := by simp [decode, h]
theorem decode_eq_rsvd7 (h : c.op = 0b111#3) : decode c = .rsvd7 := by simp [decode, h]

end

/-- Decoding keeps the operation code. -/
@[simp] theorem opcode_decode (c : Command) : (decode c).opcode = c.op := by
  unfold decode
  split <;> exact Eq.symm ‹_›

@[simp] theorem decode_encode (i : Instr) : decode (encode i) = i := by cases i <;> rfl

/-- Settles O6: decoding keeps the code, and a code decodes whatever the other ports show. -/
theorem opcodeAloneSelectsOperation : Obligations.OpcodeAloneSelectsOperation :=
  ⟨opcode_decode, fun c c' h => by rw [opcode_decode, opcode_decode, h],
    fun op => ⟨⟨op, 0, 0, zeroChars, 0⟩, rfl, opcode_decode _⟩⟩

end Sys2Proof

namespace Sys2Proof.Machine

/-! ### What an instruction does not read -/

/-- The latch before it is no operand of an instruction: with the same pending inputs it answers the same state. -/
theorem exec_eq_next_of_inputs (i : Instr) {s t : State} (h : t.inputs = s.inputs) :
    ∃ u, exec i t = .next u ∧ exec i s = .next u := by
  obtain ⟨st, rv, n, rs, ri, hexec⟩ := exec_eq_respond i
  exact ⟨_, hexec t, by rw [hexec s, respond_eq_of_inputs st rv n rs ri t s h]⟩

theorem readString_of_len_ne {len : Len} (h : len ≠ 22#8) (chars : Chars) :
    readString len chars = .error .invalidLength := by
  have hlen : len.toNat ≠ Config.strLen := fun h22 => h (BitVec.eq_of_toNat_eq h22)
  simp [readString, hlen]

/-- The cells count only when the length is 22. -/
theorem readString_congr {len : Len} {chars chars' : Chars} (h : len = 22#8 → chars = chars') :
    readString len chars = readString len chars' := by
  by_cases h22 : len = 22#8
  · rw [h h22]
  · rw [readString_of_len_ne h22, readString_of_len_ne h22]

theorem exec_dec_congr {len : Len} {chars chars' : Chars} (h : len = 22#8 → chars = chars') (s : State) :
    exec (.dec len chars) s = exec (.dec len chars') s := by
  simp only [exec, execDec, readString_congr h]

theorem exec_val_congr {len : Len} {chars chars' : Chars} (h : len = 22#8 → chars = chars') (s : State) :
    exec (.val len chars) s = exec (.val len chars') s := by
  simp only [exec, execVal, readString_congr h]

/-- Commands that agree on what their operation reads do the same. -/
theorem exec_decode_congr {a b : Command} (h : agreeOnRead a b) (s : State) :
    exec (decode a) s = exec (decode b) s := by
  obtain ⟨hop, henc, hstr, hpk64, hup64, hpk32, hup32⟩ := h
  rcases opcode_cases a.op with ha | ha | ha | ha | ha | ha | ha | ha
  · rw [decode_eq_enc ha, decode_eq_enc (hop ▸ ha), henc ha]
  · obtain ⟨hlen, hchars⟩ := hstr (.inl ha)
    rw [decode_eq_dec ha, decode_eq_dec (hop ▸ ha), ← hlen, exec_dec_congr hchars]
  · obtain ⟨hlen, hchars⟩ := hstr (.inr ha)
    rw [decode_eq_val ha, decode_eq_val (hop ▸ ha), ← hlen, exec_val_congr hchars]
  · rw [decode_eq_pk64 ha, decode_eq_pk64 (hop ▸ ha), hpk64 ha]
  · rw [decode_eq_up64 ha, decode_eq_up64 (hop ▸ ha), exec_up64, exec_up64, low64, low64, hup64 ha]
  · rw [decode_eq_pk32 ha, decode_eq_pk32 (hop ▸ ha), exec_pk32, exec_pk32, int32, int32, hpk32 ha]
  · rw [decode_eq_up32 ha, decode_eq_up32 (hop ▸ ha), exec_up32, exec_up32, low32, low32, hup32 ha]
  · rw [decode_eq_rsvd7 ha, decode_eq_rsvd7 (hop ▸ ha)]

/-- Settles O10: the response by cases on the operation code; an assembled line is the encoding of its
instruction. -/
theorem unreadPortsAreIgnored : Obligations.UnreadPortsAreIgnored := by
  refine ⟨fun a b s hab => ?_, fun l r => ?_⟩
  · obtain ⟨r, -, hexec⟩ := exec_eq_latch (decode b)
    exact ⟨_, (exec_decode_congr hab s).trans (hexec s), hexec s⟩
  · rw [Script.Line.assemble, decode_encode]

/-- Settles O38: code 7 decodes to `rsvd7` whatever the ports show, and only the latch differs after it. -/
theorem reservedCodeReportsIllegalOp : Obligations.ReservedCodeReportsIllegalOp := by
  intro c s h7
  rw [decode_eq_rsvd7 h7]
  exact ⟨raise .illegalOp s, exec_rsvd7 s, raise_eq .illegalOp s,
    fun c' => exec_eq_next_of_inputs (decode c') (raise_inputs .illegalOp s)⟩

/-! ### The compact string of a decoded value -/

theorem fold_lt (l : List Digit) : fold l < 64 ^ l.length := by
  induction l using List.reverseRecOn with
  | nil => simp
  | append_singleton l d ih =>
    have hd := d.isLt
    rw [fold_append, List.length_append, List.length_singleton, pow_succ]
    omega

/-- Digit `j` of the number that digits spell is the `j`-th of them. -/
theorem fold_div_pow_mod (l : List Digit) (j : Nat) (hj : j < l.length) :
    fold l / 64 ^ (l.length - 1 - j) % 64 = l[j].val := by
  induction l using List.reverseRecOn with
  | nil => simp at hj
  | append_singleton l d ih =>
    have hd := d.isLt
    rw [List.length_append, List.length_singleton] at hj
    simp only [fold_append, List.length_append, List.length_singleton, Nat.add_sub_cancel]
    obtain hlt | rfl : j < l.length ∨ j = l.length := by omega
    · rw [List.getElem_append_left hlt, ← ih hlt, show l.length - j = l.length - 1 - j + 1 by omega, pow_succ',
        ← Nat.div_div_eq_div_mul, show (fold l * 64 + d.val) / 64 = fold l by omega]
    · simp only [Nat.sub_self, pow_zero, Nat.div_one, List.getElem_concat_length]
      omega

/-- Writing the number that digits spell gives the characters of the digits. -/
theorem render_fold {w : Nat} (d : Vector Digit w) : render (fold d.toList) w = d.map alpha := by
  ext j hj : 1
  have hdigit := fold_div_pow_mod d.toList j (by simpa using hj)
  simp only [Vector.length_toList, Vector.getElem_toList] at hdigit
  rw [render_getElem _ _ _ hj, Vector.getElem_map]
  congr 1
  exact Fin.ext (by simpa [Fin.ofNat] using hdigit)

/-- `split` undoes `join` on the ranges of the groups. -/
theorem split_join {g : Groups} (hg : groupsInRange g) : split (join g) = g := by
  obtain ⟨h0, h1, h2, h3, h4, h5⟩ := hg
  rw [split_eq]
  cases g
  simp only [join, Groups.mk.injEq] at *
  refine ⟨?_, ?_, ?_, ?_, ?_, ?_⟩ <;> simp <;> omega

theorem foldGroups_inRange {d : Digits} (h0 : d[0].val ≤ 3) : groupsInRange (foldGroups d) := by
  have hfour (a b c e : Digit) : fold [a, b, c, e] ≤ 16777215 := by
    have hlt : fold [a, b, c, e] < 64 ^ 4 := fold_lt _
    omega
  refine ⟨?_, hfour .., hfour .., hfour .., hfour .., hfour ..⟩
  simp only [foldGroups, fold_two]
  omega

theorem renderGroups_foldGroups (d : Digits) : renderGroups (foldGroups d) = d.map alpha := by
  have htwo (a b : Digit) : (render (fold [a, b]) 2).toList = [alpha a, alpha b] := by
    simpa using congrArg Vector.toList (render_fold #v[a, b])
  have hfour (a b c e : Digit) :
      (render (fold [a, b, c, e]) 4).toList = [alpha a, alpha b, alpha c, alpha e] := by
    simpa using congrArg Vector.toList (render_fold #v[a, b, c, e])
  apply Vector.toList_inj.1
  rw [renderGroups_toList]
  simp only [foldGroups, htwo, hfour]
  apply List.ext_getElem
  · simp
  · intro k hk _
    have hk22 : k < 22 := hk
    interval_cases k <;> simp

/-- Encoding what digits decode to gives their characters back (`40_codec.md` R95). -/
theorem compactString_valueOfDigits {d : Digits} (h0 : d[0].val ≤ 3) :
    compactString (valueOfDigits d) = d.map alpha := by
  rw [compactString, valueOfDigits, bytesOf_valueOf, split_join (foldGroups_inRange h0), renderGroups_foldGroups]

theorem compactString_of_readString {len : Len} {chars : Chars} {d : Digits} (h : readString len chars = .ok d) :
    compactString (valueOfDigits d) = chars := by
  obtain ⟨-, hk, h0⟩ := (readString_ok_iff len chars d).1 h
  rw [compactString_valueOfDigits h0]
  ext k hlt : 1
  rw [Vector.getElem_map]
  exact (index_eq_some_iff _ _).1 (hk ⟨k, hlt⟩)

/-! ### The fields an operation produces -/

@[simp] theorem zeroChars_getElem (k : Nat) (hk : k < 22) : zeroChars[k] = 0#8 := by simp [zeroChars]

theorem code_eq_zero_iff (e : Status) : e.code = 0#3 ↔ e = .ok := by cases e <;> decide

theorem noResult_raise (e : Status) (s : State) : noResult (raise e s).rsp := ⟨rfl, rfl, rfl, rfl⟩

theorem readString_error_ne_ok {len : Len} {chars : Chars} {e : Status} (h : readString len chars = .error e) :
    e ≠ .ok := by
  rcases readString_error len chars e h with rfl | rfl | rfl <;> decide

theorem raise_status_ne_zero {e : Status} (he : e ≠ .ok) (s : State) : (raise e s).rsp.status ≠ 0#3 :=
  mt (code_eq_zero_iff e).1 he

/-- Settles O44: one case per instruction and per ending; an `OK` of DEC rests on the round trip of the codec. -/
theorem unproducedFieldsAreZero : Obligations.UnproducedFieldsAreZero := by
  intro i s
  cases i with
  | enc v =>
    by_cases hv : v = 0#128
    · subst hv
      exact ⟨_, exec_enc_nil s, fun _ => noResult_raise _ s,
        fun h => absurd h (raise_status_ne_zero (by decide) s)⟩
    · exact ⟨_, exec_enc_of_ne hv s, fun h => absurd rfl h, fun _ => by simp [Instr.opcode]⟩
  | dec len chars =>
    cases h : readString len chars with
    | error e =>
      exact ⟨_, exec_dec_of_error h s, fun _ => noResult_raise e s,
        fun h0 => absurd h0 (raise_status_ne_zero (readString_error_ne_ok h) s)⟩
    | ok d =>
      exact ⟨_, exec_dec_of_ok h s, fun h => absurd rfl h, fun _ => by
        simp [Instr.opcode, compactString_of_readString h]⟩
  | val len chars =>
    cases h : readString len chars with
    | error e =>
      exact ⟨_, exec_val_of_error h s, fun _ => noResult_raise e s,
        fun h0 => absurd h0 (raise_status_ne_zero (readString_error_ne_ok h) s)⟩
    | ok d =>
      exact ⟨_, exec_val_of_ok h s, fun h => absurd rfl h, fun _ => by
        simp [Instr.opcode, noResult]⟩
  | pk64 n =>
    exact ⟨_, exec_pk64 n s, fun h => absurd rfl h, fun _ => by simp [Instr.opcode, zext128]⟩
  | up64 v =>
    exact ⟨_, exec_up64 v s, fun h => absurd rfl h, fun _ => by simp [Instr.opcode, low64]⟩
  | pk32 n =>
    exact ⟨_, exec_pk32 n s, fun h => absurd rfl h, fun _ => by
      simp [Instr.opcode, zext128, sext64, int32]⟩
  | up32 v =>
    exact ⟨_, exec_up32 v s, fun h => absurd rfl h, fun _ => by
      simp [Instr.opcode, sext64, low32]⟩
  | rsvd7 =>
    exact ⟨_, exec_rsvd7 s, fun _ => noResult_raise _ s,
      fun h => absurd h (raise_status_ne_zero (by decide) s)⟩

end Sys2Proof.Machine

namespace Sys2Proof.Script

open Sys2Proof.Machine

/-! ### A line runs its instruction -/

/-- Running a line is executing its instruction, the operand resolved against the latch (`30_encoding.md` R65). -/
theorem runLine_eq_exec (l : Line) (s : State) : runLine l s = exec (l.instr s.rsp) s := by
  rw [runLine, step_present, Line.assemble, decode_encode]

theorem runLine_eq_next (l : Line) (s : State) : ∃ t, runLine l s = .next t := by
  obtain ⟨r, -, hexec⟩ := exec_eq_latch (l.instr s.rsp)
  exact ⟨_, (runLine_eq_exec l s).trans (hexec s)⟩

/-! ### Quoted strings -/

theorem quotedLen_toNat (cells : List Cell) : (quotedLen cells).toNat = min cells.length 255 := by
  rw [quotedLen, BitVec.toNat_ofNat]
  exact Nat.mod_eq_of_lt ((Nat.min_le_right _ _).trans_lt (by decide))

theorem quotedLen_eq_22_iff (cells : List Cell) : quotedLen cells = 22#8 ↔ cells.length = 22 := by
  rw [← BitVec.toNat_inj, quotedLen_toNat, BitVec.toNat_ofNat]
  omega

theorem quotedChars_getElem (cells : List Cell) (k : Fin 22) (h : k.val < cells.length) :
    (quotedChars cells)[k] = cells[k.val] := by
  simp [quotedChars, h]

/-- Settles O52: the length saturates, is 22 only for 22 cells, and is tested before any cell is read. -/
theorem stringsOfAnyLengthAreCarried : Obligations.StringsOfAnyLengthAreCarried := by
  refine ⟨fun cells => ?_, quotedLen_eq_22_iff, quotedChars_getElem, fun cells s hne => ?_,
    fun len chars chars' s hne => ⟨exec_dec_congr (absurd · hne) s, exec_val_congr (absurd · hne) s⟩⟩
  · rw [quotedLen_toNat]
    split <;> omega
  · have herror := readString_of_len_ne (mt (quotedLen_eq_22_iff cells).1 hne) (quotedChars cells)
    exact ⟨_, _, (runLine_eq_exec _ s).trans (exec_dec_of_error herror s),
      (runLine_eq_exec _ s).trans (exec_val_of_error herror s), rfl, rfl⟩

/-! ### Pseudo-instructions -/

theorem Pseudo.expand_eq_pair (p : Pseudo) : ∃ l l', p.expand = [l, l'] := by
  cases p <;> exact ⟨_, _, rfl⟩

section

variable {p : Pseudo} {l l' : Line} {s t : State}

theorem runItem_pseudo_of_error (hp : p.expand = [l, l']) (hl : runLine l s = .next t)
    (ht : t.rsp.status ≠ 0#3) : runItem (.pseudo p) s = .next t := by
  rw [runItem_pseudo, hp, runUntilError_cons l [l'] s t hl]
  exact if_neg ht

theorem runItem_pseudo_of_ok (hp : p.expand = [l, l']) (hl : runLine l s = .next t)
    (ht : t.rsp.status = 0#3) : runItem (.pseudo p) s = runLine l' t := by
  rw [runItem_pseudo, hp, runUntilError_cons l [l'] s t hl, runUntilError_singleton]
  exact if_pos ht

/-- A pseudo-instruction whose first line packs the integer 0 ends with the encoder refusing nil
(`30_encoding.md` R66). -/
theorem runItem_pseudo_of_zero_value (hp : p.expand = [l, .enc .rv]) (hl : runLine l s = .next (doneValue 0 s)) :
    runItem (.pseudo p) s = .next (raise .invalidValue (doneValue 0 s)) :=
  (runItem_pseudo_of_ok hp hl rfl).trans ((runLine_eq_exec _ _).trans (exec_enc_nil _))

end

/-- Settles O55: a sequence is two lines; each ends with a next state, and the status decides about the second. -/
theorem pseudoInstructionsStopAtFirstError : Obligations.PseudoInstructionsStopAtFirstError := by
  refine ⟨fun _ => rfl, fun _ => rfl, fun _ => rfl, fun _ => rfl, fun _ => rfl, fun p s => ?_, fun s => ?_⟩
  · obtain ⟨l, l', hp⟩ := p.expand_eq_pair
    obtain ⟨t, hl⟩ := runLine_eq_next l s
    exact ⟨l, l', t, hp, hl, runItem_pseudo_of_error hp hl, runItem_pseudo_of_ok hp hl⟩
  · have h64 : runLine (.pk64 (.decimal 0)) s = .next (doneValue 0 s) := runLine_eq_exec _ s
    have h32 : runLine (.pk32 (.decimal 0)) s = .next (doneValue 0 s) := runLine_eq_exec _ s
    exact ⟨_, _, runItem_pseudo_of_zero_value rfl h64, runItem_pseudo_of_zero_value rfl h32, rfl, rfl⟩

end Sys2Proof.Script

/-! ## Proofs: the alphabet, the digit groups, rendering and folding -/

namespace Sys2Proof.Machine

/-! ### The alphabet -/

theorem alpha_injective {d e : Digit} (h : alpha d = alpha e) : d = e :=
  Option.some.inj ((index_alpha d).symm.trans ((index_eq_some_iff _ _).2 h.symm))

/-- Settles O12: the table range by range; no symbol stands twice because `index` finds its digit again. -/
theorem alphabetTable : Obligations.AlphabetTable :=
  ⟨by decide, by decide, by decide, rfl, rfl, fun _ _ => alpha_injective⟩

/-- Settles O13: `index` is the inverse of `alpha`, and in each range of codes its formula is below 64. -/
theorem indexInvertsAlphabet : Obligations.IndexInvertsAlphabet := by
  refine ⟨index_eq_some_iff, by decide, fun c => ?_⟩
  have h5F : c.toNat = 0x5F ↔ c = 0x5F#8 := (BitVec.toNat_inj (y := 0x5F#8))
  have h24 : c.toNat = 0x24 ↔ c = 0x24#8 := (BitVec.toNat_inj (y := 0x24#8))
  simp only [index, h5F, h24]
  split_ifs
  · exact congrArg some (Nat.mod_eq_of_lt (by omega))
  · exact congrArg some (Nat.mod_eq_of_lt (by omega))
  · exact congrArg some (Nat.mod_eq_of_lt (by omega))
  · rfl
  · rfl
  · rfl

/-! ### The digit groups of 16 bytes and of a value -/

theorem groupsInRange_split (b : Bytes) : groupsInRange (split b) := by
  have hlt (i : Nat) (hi : i < 16) : b[i].toNat < 256 := byte_lt b i hi
  have hthree {x y z : Nat} (hx : x < 256) (hy : y < 256) (hz : z < 256) :
      x * 65536 + y * 256 + z ≤ 16777215 := by omega
  rw [split_eq]
  exact ⟨Nat.le_of_lt_succ (hlt 0 _), hthree (hlt 1 _) (hlt 2 _) (hlt 3 _), hthree (hlt 4 _) (hlt 5 _) (hlt 6 _),
    hthree (hlt 7 _) (hlt 8 _) (hlt 9 _), hthree (hlt 10 _) (hlt 11 _) (hlt 12 _),
    hthree (hlt 13 _) (hlt 14 _) (hlt 15 _)⟩

/-- Settles O17: each formula is the definition's, and `split_eq` says what it comes to byte by byte. -/
theorem splitGivesDigitGroups : Obligations.SplitGivesDigitGroups := fun b =>
  ⟨rfl, congrArg Groups.num0 (split_eq b), rfl, congrArg Groups.num1 (split_eq b),
    rfl, congrArg Groups.num2 (split_eq b), rfl, congrArg Groups.num3 (split_eq b), rfl, rfl, groupsInRange_split b⟩

/-- The value as the sum of its groups, each at the weight of its place (`40_codec.md` R90). -/
theorem valueOf_toNat_groups (b : Bytes) : (valueOf b).toNat =
    (split b).num0 * 2 ^ 120 + (split b).num1 * 2 ^ 96 + (split b).num2 * 2 ^ 72 + (split b).num3 * 2 ^ 48 +
      (split b).num4 * 2 ^ 24 + (split b).num5 := by
  rw [valueOf_toNat, split_eq]
  ring

theorem valueOf_join_toNat {g : Groups} (hg : groupsInRange g) : (valueOf (join g)).toNat =
    g.num0 * 2 ^ 120 + g.num1 * 2 ^ 96 + g.num2 * 2 ^ 72 + g.num3 * 2 ^ 48 + g.num4 * 2 ^ 24 + g.num5 := by
  rw [valueOf_toNat_groups, split_join hg]

theorem join_bytes_toNat {g : Groups} (hg : groupsInRange g) :
    (join g).toList.map BitVec.toNat =
      [(g.num0 * 16777216 + g.num1) / 16777216, (g.num0 * 16777216 + g.num1) / 65536 % 256,
       (g.num0 * 16777216 + g.num1) / 256 % 256, (g.num0 * 16777216 + g.num1) % 256,
       g.num2 / 256 / 256, g.num2 / 256 % 256,
       ((g.num2 % 256) * 256 + g.num3 / 65536) / 256, ((g.num2 % 256) * 256 + g.num3 / 65536) % 256,
       g.num3 / 256 % 256, g.num3 % 256,
       g.num4 / 65536, g.num4 / 256 % 256, g.num4 % 256,
       g.num5 / 65536, g.num5 / 256 % 256, g.num5 % 256] := by
  obtain ⟨h0, h1, h2, h3, h4, h5⟩ := hg
  have hbyte {n : Nat} (hn : n < 256) : (BitVec.ofNat 8 n).toNat = n := Nat.mod_eq_of_lt hn
  simp (disch := omega) only [join, Vector.toList_mk, List.map_cons, List.map_nil, hbyte]

/-- Settles O18: the two inverses, from which uniqueness follows, and the bytes and the sum of a joined value. -/
theorem joinIsTheInverseOfSplit : Obligations.JoinIsTheInverseOfSplit := by
  refine ⟨join_split, fun g => split_join, fun j hj g hg => ?_,
    fun g hg => ⟨join_bytes_toNat hg, valueOf_join_toNat hg⟩⟩
  calc j g = j (split (join g)) := by rw [split_join hg]
    _ = join g := hj (join g)

/-- Three bytes of a number next to each other are a slice of 24 bits. -/
theorem three_bytes_eq_slice (n m : Nat) :
    n / 2 ^ (m + 16) % 256 * 65536 + n / 2 ^ (m + 8) % 256 * 256 + n / 2 ^ m % 256 = n / 2 ^ m % 2 ^ 24 := by
  rw [pow_add, pow_add, ← Nat.div_div_eq_div_mul, ← Nat.div_div_eq_div_mul]
  omega

/-- The groups of a value are slices of its bits (`40_codec.md` R82). -/
theorem split_bytesOf (v : Value) : split (bytesOf v) =
    { num0 := (v.extractLsb' 120 8).toNat
      num1 := (v.extractLsb' 96 24).toNat
      num2 := (v.extractLsb' 72 24).toNat
      num3 := (v.extractLsb' 48 24).toNat
      num4 := (v.extractLsb' 24 24).toNat
      num5 := (v.extractLsb' 0 24).toNat } := by
  have hslice := three_bytes_eq_slice v.toNat
  simp only [split_eq, bytesOf_toNat, BitVec.extractLsb'_toNat, Nat.shiftRight_eq_div_pow, ← hslice]

theorem toNat_three_bytes (x y z : Byte) : (x ++ y ++ z).toNat = x.toNat * 65536 + y.toNat * 256 + z.toNat := by
  rw [toNat_append_byte, toNat_append_byte]
  ring

/-- The groups of 16 bytes are the bytes next to each other, as numbers. -/
theorem split_eq_append (b : Bytes) :
    (split b).num0 = b[0].toNat ∧ (split b).num1 = (b[1] ++ b[2] ++ b[3]).toNat ∧
    (split b).num2 = (b[4] ++ b[5] ++ b[6]).toNat ∧ (split b).num3 = (b[7] ++ b[8] ++ b[9]).toNat ∧
    (split b).num4 = (b[10] ++ b[11] ++ b[12]).toNat ∧ (split b).num5 = (b[13] ++ b[14] ++ b[15]).toNat := by
  simp only [split_eq, toNat_three_bytes, and_self]

/-- The cells of the six groups in the string they are rendered to (`40_codec.md` R82). -/
theorem renderGroups_getElem_render (g : Groups) :
    (∀ j : Fin 2, (renderGroups g)[j.val] = (render g.num0 2)[j]) ∧
    (∀ j : Fin 4, (renderGroups g)[2 + j.val] = (render g.num1 4)[j]) ∧
    (∀ j : Fin 4, (renderGroups g)[6 + j.val] = (render g.num2 4)[j]) ∧
    (∀ j : Fin 4, (renderGroups g)[10 + j.val] = (render g.num3 4)[j]) ∧
    (∀ j : Fin 4, (renderGroups g)[14 + j.val] = (render g.num4 4)[j]) ∧
    (∀ j : Fin 4, (renderGroups g)[18 + j.val] = (render g.num5 4)[j]) := by
  obtain ⟨h0, h1, h2, h3, h4, h5⟩ := renderGroups_getElem g
  simp only [Fin.getElem_fin, render_getElem _ _ _ (Fin.isLt _), Nat.reduceSub]
  refine ⟨fun j => ?_, fun j => ?_, fun j => ?_, fun j => ?_, fun j => ?_, fun j => ?_⟩
  exacts [h0 j j.isLt, h1 j j.isLt, h2 j j.isLt, h3 j j.isLt, h4 j j.isLt, h5 j j.isLt]

/-- Settles O19: the groups as bit slices, as bytes, in their ranges, and as cells of the string. -/
theorem groupsCoverStringAndValue : Obligations.GroupsCoverStringAndValue := by
  intro v
  have hbits := split_bytesOf v
  obtain ⟨h0, h1, h2, h3, h4, h5⟩ := split_eq_append (bytesOf v)
  exact ⟨congrArg Groups.num0 hbits, congrArg Groups.num1 hbits, congrArg Groups.num2 hbits,
    congrArg Groups.num3 hbits, congrArg Groups.num4 hbits, congrArg Groups.num5 hbits,
    h0, h1, h2, h3, h4, h5, groupsInRange_split _, renderGroups_getElem_render (split (bytesOf v))⟩

/-! ### Rendering and folding -/

/-- Settles O20: each character by the definition, the precondition from the ranges of the groups. -/
theorem renderWritesDigits : Obligations.RenderWritesDigits := by
  refine ⟨fun n w j => render_getElem n w j j.isLt, fun b => ?_, by decide, by decide, by decide⟩
  obtain ⟨h0, h1, h2, h3, h4, h5⟩ := groupsInRange_split b
  exact ⟨h0.trans_lt (by decide), Nat.lt_succ_of_le h1, Nat.lt_succ_of_le h2, Nat.lt_succ_of_le h3,
    Nat.lt_succ_of_le h4, Nat.lt_succ_of_le h5⟩

/-- The `w` base-64 digits of a number, most significant first: what `render` writes the characters of. -/
def renderDigits (n w : Nat) : Vector Digit w :=
  Vector.ofFn fun j => Fin.ofNat 64 (n / 64 ^ (w - 1 - j.val))

theorem renderDigits_getElem (n w j : Nat) (h : j < w) :
    (renderDigits n w)[j] = Fin.ofNat 64 (n / 64 ^ (w - 1 - j)) := by simp [renderDigits]

theorem render_eq_map_alpha (n w : Nat) : render n w = (renderDigits n w).map alpha := by
  ext j hj : 1
  rw [render_getElem n w j hj, Vector.getElem_map, renderDigits_getElem n w j hj]

theorem index_render (n w j : Nat) (h : j < w) : index (render n w)[j] = some (renderDigits n w)[j] := by
  rw [render_getElem n w j h, index_alpha, renderDigits_getElem n w j h]

/-- The digits of a number, its last digit set apart. -/
theorem renderDigits_toList_succ (n w : Nat) :
    (renderDigits n (w + 1)).toList = (renderDigits (n / 64) w).toList ++ [Fin.ofNat 64 n] := by
  have hdigit (j : Fin w) : n / 64 ^ (w - j.val) = n / 64 / 64 ^ (w - 1 - j.val) := by
    rw [Nat.div_div_eq_div_mul, ← pow_succ', show w - 1 - j.val + 1 = w - j.val by omega]
  simp [renderDigits, Vector.ofFn_succ, Vector.toList_push, hdigit]

/-- Folding the `w` lowest digits of a number gives its remainder by `64 ^ w`. -/
theorem fold_renderDigits_mod (n w : Nat) : fold (renderDigits n w).toList = n % 64 ^ w := by
  induction w generalizing n with
  | zero => simp [Vector.toList_ofFn, renderDigits, Nat.mod_one]
  | succ w ih =>
    rw [renderDigits_toList_succ, fold_append, ih, pow_succ', Nat.mod_mul, Fin.val_ofNat]
    ring

theorem fold_renderDigits {n w : Nat} (h : n < 64 ^ w) : fold (renderDigits n w).toList = n := by
  rw [fold_renderDigits_mod, Nat.mod_eq_of_lt h]

theorem fold_four_le (a b c d : Digit) : fold [a, b, c, d] ≤ 16777215 := by
  have hlt : fold [a, b, c, d] < 64 ^ 4 := fold_lt _
  omega

theorem fold_two_le {a : Digit} (ha : a.val ≤ 3) (b : Digit) : fold [a, b] ≤ 255 := by
  rw [fold_two]
  omega

/-- Settles O21: the fold step, the digits that `render` wrote, and the bounds from `fold_lt`. -/
theorem foldReadsBackRender : Obligations.FoldReadsBackRender :=
  ⟨⟨fold_nil, fold_append⟩,
    fun w n h => ⟨renderDigits n w, fun j => index_render n w j j.isLt, fold_renderDigits h⟩,
    fun d => Nat.le_sub_one_of_lt (fold_lt d), fold_four_le, fun _ b ha => fold_two_le ha b⟩

end Sys2Proof.Machine

/-! ## Proofs: the check of a string, the base-64 expansion, the round trips, ENC, DEC and VAL -/

namespace Sys2Proof.Machine

/-! ### The check of a string operand (`40_codec.md` R91) -/

theorem code_eq_code_iff (e e' : Status) : e.code = e'.code ↔ e = e' := by
  cases e <;> cases e' <;> decide

section

variable {len : Len} {chars : Chars}

theorem check_of_error {e : Status} (h : readString len chars = .error e) : check len chars = e := by
  simp [check, h]

theorem check_of_ok {d : Digits} (h : readString len chars = .ok d) : check len chars = .ok := by
  simp [check, h]

theorem len_toNat_eq_22_iff : len.toNat = 22 ↔ len = 22#8 := BitVec.toNat_inj (y := 22#8)

theorem readString_of_digits {d : Digits} (hd : ∀ k : Fin 22, index chars[k] = some d[k]) (h0 : d[0].val ≤ 3) :
    readString 22#8 chars = .ok d :=
  (readString_ok_iff _ _ _).2 ⟨rfl, hd, h0⟩

/-- The three tests in order, each on the string alone. -/
theorem check_eq_ite (len : Len) (chars : Chars) : check len chars =
    if len ≠ 22#8 then .invalidLength
    else if ∃ k : Fin 22, index chars[k] = none then .invalidCharacter
    else if ∃ d, index chars[0] = some d ∧ 4 ≤ d.val then .outOfRange
    else .ok := by
  rcases readString_cases len chars with ⟨hlen, h⟩ | ⟨hlen, hk, h⟩ | ⟨hlen, d, hd, htop⟩
  · rw [check_of_error h, if_pos (mt len_toNat_eq_22_iff.2 hlen)]
  · rw [check_of_error h, if_neg (not_not.2 (len_toNat_eq_22_iff.1 hlen)), if_pos hk]
  · have h0 : index chars[0] = some d[0] := hd 0
    rw [if_neg (not_not.2 (len_toNat_eq_22_iff.1 hlen)), 
      if_neg fun ⟨k, hk⟩ => Option.some_ne_none _ ((hd k).symm.trans hk)]
    rcases htop with ⟨h3, h⟩ | ⟨h3, h⟩
    · rw [check_of_error h, if_pos ⟨d[0], h0, h3⟩]
    · rw [check_of_ok h, if_neg]
      rintro ⟨e, he, h4⟩
      have hde : d[0] = e := Option.some.inj (h0.symm.trans he)
      rw [← hde] at h4
      omega

theorem check_eq_invalidLength_iff : check len chars = .invalidLength ↔ len ≠ 22#8 := by
  rw [check_eq_ite]
  split_ifs <;> simp_all

theorem check_eq_invalidCharacter_iff :
    check len chars = .invalidCharacter ↔ len = 22#8 ∧ ∃ k : Fin 22, index chars[k] = none := by
  rw [check_eq_ite]
  split_ifs <;> simp_all

theorem check_eq_outOfRange_iff : check len chars = .outOfRange ↔
    len = 22#8 ∧ (∀ k : Fin 22, index chars[k] ≠ none) ∧ ∃ d, index chars[0] = some d ∧ 4 ≤ d.val := by
  rw [check_eq_ite]
  split_ifs <;> simp_all

theorem check_eq_ok_iff : check len chars = .ok ↔ validString len chars := by
  rw [validString_iff_readString]
  cases h : readString len chars with
  | error e => simp [check_of_error h, readString_error_ne_ok h]
  | ok d => simp [check_of_ok h]

end

/-- Settles O25: the tests in order, and `OK` for what `readString` reads. -/
theorem checkTestsInOrder : Obligations.CheckTestsInOrder :=
  ⟨fun _ _ hlen => check_eq_invalidLength_iff.2 (mt len_toNat_eq_22_iff.2 hlen),
    fun _ _ hlen hk => check_eq_invalidCharacter_iff.2 ⟨len_toNat_eq_22_iff.1 hlen, hk⟩,
    fun _ _ hlen hall htop => check_eq_outOfRange_iff.2 ⟨len_toNat_eq_22_iff.1 hlen, hall, htop⟩,
    fun _ _ => check_eq_ok_iff⟩

/-! ### DEC and VAL answer the check -/

/-- VAL completes with the status of the check and nothing else (`40_codec.md` R93). -/
theorem exec_val_eq_raise_check (len : Len) (chars : Chars) (s : State) :
    exec (.val len chars) s = .next (raise (check len chars) s) := by
  cases h : readString len chars with
  | error e => rw [exec_val_of_error h, check_of_error h]
  | ok d =>
    rw [exec_val_of_ok h, check_of_ok h]
    rfl

theorem exec_dec_of_check_ne_ok {len : Len} {chars : Chars} (hne : check len chars ≠ .ok) (s : State) :
    exec (.dec len chars) s = .next (raise (check len chars) s) := by
  cases h : readString len chars with
  | error e => rw [exec_dec_of_error h, check_of_error h]
  | ok d => exact absurd (check_of_ok h) hne

theorem exec_dec_status (len : Len) (chars : Chars) (s : State) :
    ∃ t, exec (.dec len chars) s = .next t ∧ t.rsp.status = (check len chars).code := by
  cases h : readString len chars with
  | error e => exact ⟨_, exec_dec_of_error h s, congrArg Status.code (check_of_error h).symm⟩
  | ok d => exact ⟨_, exec_dec_of_ok h s, congrArg Status.code (check_of_ok h).symm⟩

theorem check_allZeroString : check 22#8 allZeroString = .ok := check_eq_ok_iff.2 (by decide)

/-- Settles O24: VAL answers the check, and DEC ends with the same status. -/
theorem validateReportsCheck : Obligations.ValidateReportsCheck := by
  refine ⟨fun c => decode_eq_val, exec_val_eq_raise_check, fun len chars s s' => ?_,
    check_allZeroString, by decide, by decide⟩
  obtain ⟨u, hu, hstatus⟩ := exec_dec_status len chars s'
  exact ⟨_, u, exec_val_eq_raise_check len chars s, hu, hstatus.symm⟩

/-! ### Folding a whole string (`40_codec.md` R94) -/

theorem fold_append_list (l m : List Digit) : fold (l ++ m) = fold l * 64 ^ m.length + fold m := by
  induction m using List.reverseRecOn with
  | nil => simp
  | append_singleton m x ih =>
    rw [← List.append_assoc, fold_append, ih, fold_append, List.length_append, List.length_singleton]
    ring

theorem fold_cons (x : Digit) (l : List Digit) : fold (x :: l) = x.val * 64 ^ l.length + fold l := by
  rw [← List.singleton_append, fold_append_list]
  simp [fold]

/-- The number that digits spell, each digit at the weight of its place. -/
theorem fold_ofFn {w : Nat} (f : Fin w → Digit) :
    fold (List.ofFn f) = ∑ k : Fin w, (f k).val * 64 ^ (w - 1 - k.val) := by
  induction w with
  | zero => simp
  | succ w ih =>
    rw [List.ofFn_succ, fold_cons, List.length_ofFn, ih, Fin.sum_univ_succ]
    simp [Nat.sub_sub, Nat.add_comm]

theorem digits_toList (d : Digits) : d.toList = List.ofFn fun k : Fin 22 => d[k] :=
  List.ext_getElem (by simp) fun k _ _ => by simp only [Vector.getElem_toList, List.getElem_ofFn, Fin.getElem_fin]

theorem fold_toList (d : Digits) : fold d.toList = ∑ k : Fin 22, d[k].val * 64 ^ (21 - k.val) := by
  rw [digits_toList, fold_ofFn]

/-- Where the leading digit is at most 3 the six groups spell what the 22 digits do. -/
theorem valueOfDigits_toNat {d : Digits} (h0 : d[0].val ≤ 3) : (valueOfDigits d).toNat = fold d.toList := by
  have hgroups : d.toList = [d[0], d[1]] ++ [d[2], d[3], d[4], d[5]] ++ [d[6], d[7], d[8], d[9]] ++
      [d[10], d[11], d[12], d[13]] ++ [d[14], d[15], d[16], d[17]] ++ [d[18], d[19], d[20], d[21]] :=
    digits_toList d
  rw [valueOfDigits, valueOf_join_toNat (foldGroups_inRange h0), hgroups]
  simp only [fold_append_list, List.length_cons, List.length_nil, foldGroups]
  ring

/-- 22 digits spell a 128-bit number exactly when the leading one is at most 3. -/
theorem fold_toList_lt_iff (d : Digits) : fold d.toList < 2 ^ 128 ↔ d[0].val ≤ 3 := by
  have htail (l : List Digit) (hl : l.length = 21) :
      fold (d[0] :: l) < 2 ^ 128 ↔ d[0].val ≤ 3 := by
    have hlt := fold_lt l
    rw [hl] at hlt
    rw [fold_cons, hl]
    omega
  rw [digits_toList, List.ofFn_succ]
  exact htail _ (List.length_ofFn)

/-! ### The compact string of a value -/

theorem value_lt (v : Value) : v.toNat < 64 ^ 22 := v.isLt.trans (by decide)

theorem renderDigits_leading_le (v : Value) : (renderDigits v.toNat 22)[0].val ≤ 3 := by
  rw [← fold_toList_lt_iff, fold_renderDigits (value_lt v)]
  exact v.isLt

theorem valueOfDigits_renderDigits (v : Value) : valueOfDigits (renderDigits v.toNat 22) = v := by
  apply BitVec.eq_of_toNat_eq
  rw [valueOfDigits_toNat (renderDigits_leading_le v), fold_renderDigits (value_lt v)]

/-- The compact string is the plain base-64 expansion with 22 digits (`40_codec.md` R94). -/
theorem compactString_eq_render (v : Value) : compactString v = render v.toNat 22 := by
  rw [render_eq_map_alpha, ← compactString_valueOfDigits (renderDigits_leading_le v), valueOfDigits_renderDigits]

theorem compactString_getElem (v : Value) (k : Fin 22) :
    (compactString v)[k] = alpha (Fin.ofNat 64 (v.toNat / 64 ^ (21 - k.val))) := by
  rw [compactString_eq_render]
  exact render_getElem _ _ _ k.isLt

theorem readString_compactString (v : Value) :
    readString 22#8 (compactString v) = .ok (renderDigits v.toNat 22) := by
  rw [compactString_eq_render]
  exact readString_of_digits (fun k => index_render _ _ k k.isLt) (renderDigits_leading_le v)

theorem validString_compactString (v : Value) : validString 22#8 (compactString v) :=
  (validString_iff_readString _ _).2 ⟨_, readString_compactString v⟩

/-- DEC undoes `compactString`. -/
theorem exec_dec_compactString (v : Value) (s : State) :
    exec (.dec 22#8 (compactString v)) s = .next (doneValue v s) := by
  rw [exec_dec_of_ok (readString_compactString v), valueOfDigits_renderDigits]

theorem compactString_injective : Function.Injective compactString := by
  intro v w h
  have hread := readString_compactString v
  rw [h, readString_compactString w] at hread
  rw [← valueOfDigits_renderDigits v, ← Except.ok.inj hread, valueOfDigits_renderDigits]

/-- Every valid string is the compact string of a value, nil included. -/
theorem exists_compactString_eq {len : Len} {chars : Chars} (h : validString len chars) :
    ∃ v, compactString v = chars := by
  obtain ⟨d, hd⟩ := (validString_iff_readString len chars).1 h
  exact ⟨_, compactString_of_readString hd⟩

theorem compactString_zero : compactString 0#128 = allZeroString := by
  ext k hk : 1
  rw [compactString_eq_render, render_getElem _ _ _ hk, allZeroString, Vector.getElem_replicate,
    BitVec.toNat_ofNat, Nat.zero_mod, Nat.zero_div]
  rfl

theorem compactString_eq_allZeroString_iff (v : Value) : compactString v = allZeroString ↔ v = 0#128 := by
  rw [← compactString_zero]
  exact compactString_injective.eq_iff

/-! ### The statements about ENC, DEC and VAL -/

/-- Settles O22: both endings of ENC, its string as the six rendered groups, its validity, and the examples. -/
theorem encodeGivesCompactString : Obligations.EncodeGivesCompactString := by
  refine ⟨fun c => decode_eq_enc, fun v s hv => exec_enc_of_ne hv s, exec_enc_nil,
    fun v => renderGroups_toList _, validString_compactString, by decide, by decide, by decide, by decide,
    by decide⟩

theorem exec_dec_allZeroString (s : State) : exec (.dec 22#8 allZeroString) s = .next (doneValue 0#128 s) := by
  rw [← compactString_zero, exec_dec_compactString]

/-- Settles O23: both endings of DEC, each status exactly when the check gives it, and the examples as compact strings
read back. -/
theorem decodeGivesValue : Obligations.DecodeGivesValue := by
  refine ⟨fun c => decode_eq_dec, fun chars d s hd h0 => exec_dec_of_ok (readString_of_digits hd h0) s,
    fun len chars s hne => exec_dec_of_check_ne_ok hne s, fun len chars s => ?_, exec_dec_allZeroString,
    fun s => ⟨_, exec_dec_compactString _ s, rfl, rfl⟩, fun chars s hall => ⟨fun h3 => ?_, fun h4 => ?_⟩,
    fun s => ⟨_, exec_dec_compactString _ s, rfl, rfl⟩⟩
  · obtain ⟨t, ht, hstatus⟩ := exec_dec_status len chars s
    rw [← check_eq_invalidLength_iff (chars := chars), ← check_eq_invalidCharacter_iff, ← check_eq_outOfRange_iff,
      ← code_eq_code_iff, ← code_eq_code_iff, ← code_eq_code_iff, ← hstatus]
    exact ⟨t, ht, .rfl, .rfl, .rfl⟩
  · obtain ⟨t, ht, hstatus⟩ := exec_dec_status 22#8 chars s
    have hvalid : validString 22#8 chars :=
      ⟨rfl, hall, fun d hd => (Option.some.inj (h3.symm.trans hd)) ▸ le_refl 3⟩
    exact ⟨t, ht, hstatus.trans (congrArg Status.code (check_eq_ok_iff.2 hvalid))⟩
  · obtain ⟨t, ht, hstatus⟩ := exec_dec_status 22#8 chars s
    have hcheck := check_eq_outOfRange_iff.2 ⟨rfl, hall, 4, h4, le_refl 4⟩
    exact ⟨t, ht, hstatus.trans (congrArg Status.code hcheck)⟩

theorem leading_cell_of_validString {len : Len} {chars : Chars} (h : validString len chars) :
    chars[0] = 0x30#8 ∨ chars[0] = 0x31#8 ∨ chars[0] = 0x32#8 ∨ chars[0] = 0x33#8 := by
  obtain ⟨-, hall, h0⟩ := h
  have hcodes : ∀ d : Digit, d.val ≤ 3 →
      alpha d = 0x30#8 ∨ alpha d = 0x31#8 ∨ alpha d = 0x32#8 ∨ alpha d = 0x33#8 := by decide
  obtain ⟨d, hd⟩ : ∃ d, index chars[0] = some d := Option.ne_none_iff_exists'.1 (hall 0)
  rw [← (index_eq_some_iff _ _).1 hd]
  exact hcodes d (h0 d hd)

/-- Values, nil included, and valid strings are in bijection. -/
theorem compactString_bijective :
    Function.Bijective fun v : Value =>
      (⟨compactString v, validString_compactString v⟩ : {chars : Chars // validString 22#8 chars}) :=
  ⟨fun _ _ h => compactString_injective (Subtype.mk.inj h), fun ⟨_, hvalid⟩ =>
    (exists_compactString_eq hvalid).imp fun _ hv => Subtype.ext hv⟩

theorem card_validString : Nat.card {chars : Chars // validString 22#8 chars} = 2 ^ 128 := by
  rw [← Nat.card_eq_of_bijective _ compactString_bijective, Nat.card_congr BitVec.equivFin.toEquiv, Nat.card_fin]

/-- Settles O26: VAL by its check, the leading cell by the table, the count by the bijection with the values. -/
theorem validStringsCounted : Obligations.ValidStringsCounted := by
  refine ⟨fun len chars s => ⟨_, exec_val_eq_raise_check len chars s, ?_⟩,
    fun _ _ => leading_cell_of_validString, card_validString⟩
  rw [raise_status, code_eq_zero_iff, check_eq_ok_iff]

theorem ofNat_extractLsb' (v : Value) (m : Nat) :
    (Fin.ofNat 64 (v.extractLsb' (6 * m) 6).toNat) = Fin.ofNat 64 (v.toNat / 64 ^ m) := by
  apply Fin.ext
  rw [BitVec.extractLsb'_toNat, Nat.shiftRight_eq_div_pow, pow_mul]
  exact Nat.mod_mod _ 64

/-- The leading character carries the top two bits. -/
theorem toNat_extractLsb'_top (v : Value) : (v.extractLsb' 126 2).toNat = v.toNat / 64 ^ 21 := by
  have hlt := v.isLt
  rw [BitVec.extractLsb'_toNat, Nat.shiftRight_eq_div_pow]
  omega

/-- Settles O49: the characters of ENC, the value of DEC and the guard, all from the 22-digit expansion. -/
theorem codecIsBase64Expansion : Obligations.CodecIsBase64Expansion := by
  refine ⟨fun v s hv => ⟨_, exec_enc_of_ne hv s, compactString_getElem v, ?_, ?_, fun k _ => ?_⟩,
    fun chars d s hd h0 => ⟨_, exec_dec_of_ok (readString_of_digits hd h0) s, ?_⟩, fun d => ?_⟩
  · rw [toNat_extractLsb'_top]
    exact compactString_getElem v 0
  · exact (compactString_getElem v 1).trans (congrArg alpha (ofNat_extractLsb' v 20).symm)
  · rw [ofNat_extractLsb']
    exact compactString_getElem v k
  · rw [doneValue_rv, valueOfDigits_toNat h0, fold_toList]
  · rw [← fold_toList_lt_iff, fold_toList]

/-- ENC and DEC as a bijection between the non-nil values and the valid strings but the all-0 one. -/
theorem compactString_bijOn :
    Set.BijOn compactString {v | v ≠ 0#128} {c | validString 22#8 c ∧ c ≠ allZeroString} := by
  refine ⟨fun v hv => ⟨validString_compactString v, mt (compactString_eq_allZeroString_iff v).1 hv⟩,
    compactString_injective.injOn, ?_⟩
  rintro chars ⟨hvalid, hne⟩
  obtain ⟨v, rfl⟩ := exists_compactString_eq hvalid
  exact ⟨v, mt (compactString_eq_allZeroString_iff v).2 hne, rfl⟩

/-- Settles O50: both round trips through `compactString`, the nil string, the bijection, and one latch for each
instruction. -/
theorem codecRoundTrips : Obligations.CodecRoundTrips := by
  refine ⟨fun v s s' hv => ?_, fun len chars s s' hvalid hne => ?_, fun s s' => ?_, compactString_bijOn,
    fun i s s' => ?_⟩
  · exact ⟨_, exec_enc_of_ne hv s, rfl, validString_compactString v, _, exec_dec_compactString v s', rfl, rfl⟩
  · obtain rfl : len = 22#8 := len_toNat_eq_22_iff.1 hvalid.1
    obtain ⟨v, rfl⟩ := exists_compactString_eq hvalid
    have hv : v ≠ 0#128 := mt (compactString_eq_allZeroString_iff v).2 hne
    exact ⟨_, exec_dec_compactString v s, rfl, hv, _, exec_enc_of_ne hv s', rfl, rfl, rfl⟩
  · exact ⟨_, exec_dec_allZeroString s, rfl, rfl, _, exec_enc_nil s', rfl⟩
  · obtain ⟨r, -, hexec⟩ := exec_eq_latch i
    exact ⟨_, _, hexec s, hexec s', rfl⟩

end Sys2Proof.Machine

/-! ## Proofs: the integer packer, its round trips alone and through the codec -/

namespace Sys2Proof.Machine

/-! ### The two widths of an integer -/

/-- The integer in the low half of a value is what PK64 put there. -/
@[simp] theorem low64_zext128 (n : IntWord) : low64 (zext128 n) = n := by
  rw [low64, zext128, BitVec.extractLsb'_setWidth_of_le (by decide), BitVec.extractLsb'_eq_self]

/-- UP32 reads of a value what PK32 would read of its low half. -/
theorem low32_eq_int32_low64 (v : Value) : low32 v = int32 (low64 v) :=
  (BitVec.extractLsb'_extractLsb'_of_le (by decide)).symm

theorem low32_zext128 (n : IntWord) : low32 (zext128 n) = int32 n := by
  rw [low32_eq_int32_low64, low64_zext128]

theorem low64_append (high low : IntWord) : low64 (high ++ low) = low :=
  (BitVec.extractLsb'_append_eq_of_add_le le_rfl).trans BitVec.extractLsb'_eq_self

theorem low32_append (high : BitVec 96) (n : BitVec 32) : low32 (high ++ n) = n :=
  (BitVec.extractLsb'_append_eq_of_add_le le_rfl).trans BitVec.extractLsb'_eq_self

theorem int32_append (high n : BitVec 32) : int32 (high ++ n) = n :=
  (BitVec.extractLsb'_append_eq_of_add_le le_rfl).trans BitVec.extractLsb'_eq_self

theorem zext128_eq_append (n : IntWord) : zext128 n = 0#64 ++ n :=
  BitVec.setWidth_eq_append (by decide)

theorem sext64_eq_append (n : BitVec 32) : sext64 n = (if n.getLsbD 31 then 0xFFFFFFFF#32 else 0#32) ++ n :=
  BitVec.signExtend_eq_append_of_le (by decide)

theorem zext128_sext64_eq_append (n : BitVec 32) :
    zext128 (sext64 n) = 0#64 ++ (if n.getLsbD 31 then 0xFFFFFFFF#32 else 0#32) ++ n := by
  rw [zext128_eq_append, sext64_eq_append, BitVec.append_assoc', BitVec.cast_eq]

@[simp] theorem int32_sext64 (n : BitVec 32) : int32 (sext64 n) = n := by
  rw [sext64_eq_append, int32_append]

theorem toInt_ofInt32 {i : Int} (hlo : -2 ^ 31 ≤ i) (hhi : i < 2 ^ 31) : (BitVec.ofInt 32 i).toInt = i :=
  BitVec.toInt_ofInt_eq_self (by decide) hlo hhi

theorem toInt_ofInt64 {i : Int} (hlo : -2 ^ 63 ≤ i) (hhi : i < 2 ^ 63) : (BitVec.ofInt 64 i).toInt = i :=
  BitVec.toInt_ofInt_eq_self (by decide) hlo hhi

/-- A 32-bit integer on a 64-bit port is the pattern of the same number (`41_integer_packer.md` R114). -/
theorem sext64_ofInt {i : Int} (hlo : -2 ^ 31 ≤ i) (hhi : i < 2 ^ 31) :
    sext64 (BitVec.ofInt 32 i) = BitVec.ofInt 64 i := by
  apply BitVec.eq_of_toInt_eq
  rw [toInt_sext64, toInt_ofInt32 hlo hhi, toInt_ofInt64 (by omega) (by omega)]

/-- Cutting an integer to 32 bits keeps it exactly when it fits them (`41_integer_packer.md` R115). -/
theorem sext64_int32_eq_iff (n : IntWord) :
    sext64 (int32 n) = n ↔ -2 ^ 31 ≤ n.toInt ∧ n.toInt < 2 ^ 31 := by
  constructor
  · intro h
    rw [← h, toInt_sext64]
    exact ⟨BitVec.le_toInt _, BitVec.toInt_lt⟩
  · rintro ⟨hlo, hhi⟩
    have hn : n = sext64 (BitVec.ofInt 32 n.toInt) := by rw [sext64_ofInt hlo hhi, BitVec.ofInt_toInt]
    rw [hn, int32_sext64]

/-- Packing the low half of a value gives the value exactly when its high half is zero. -/
theorem zext128_low64_eq_iff (v : Value) : zext128 (low64 v) = v ↔ v.extractLsb' 64 64 = 0#64 := by
  have hv : v.extractLsb' 64 64 ++ low64 v = v :=
    (BitVec.extractLsb'_append_extractLsb'_eq_extractLsb' (by decide)).trans BitVec.extractLsb'_eq_self
  constructor
  · intro h
    rw [← h, zext128_eq_append, BitVec.extractLsb'_append_eq_of_le le_rfl]
    exact BitVec.extractLsb'_eq_self
  · intro h
    rw [zext128_eq_append, ← h, hv]

/-! ### The bytes of a packed integer (`41_integer_packer.md` R110) -/

theorem extractLsb'_high_zext128 (n : IntWord) : (zext128 n).extractLsb' 64 64 = 0#64 :=
  (zext128_low64_eq_iff _).1 (by rw [low64_zext128])

theorem bytesOf_zext128_high (n : IntWord) (j : Nat) (hj : j < 8) : (bytesOf (zext128 n))[j] = 0#8 := by
  rw [bytesOf_getElem _ _ (by omega), zext128_eq_append, BitVec.extractLsb'_append_eq_of_le (by omega)]
  simp

theorem bytesOf_zext128_low (n : IntWord) (j : Nat) (hj : j < 8) :
    (bytesOf (zext128 n))[8 + j] = n.extractLsb' (8 * (7 - j)) 8 := by
  rw [bytesOf_getElem _ _ (by omega), zext128, BitVec.extractLsb'_setWidth_of_le (by omega),
    show 120 - 8 * (8 + j) = 8 * (7 - j) by omega]

theorem bytesOf_zext128_low_toNat (n : IntWord) (j : Nat) (hj : j < 8) :
    (bytesOf (zext128 n))[8 + j].toNat = n.toNat / 256 ^ (7 - j) % 256 := by
  rw [bytesOf_zext128_low n j hj, BitVec.extractLsb'_toNat, Nat.shiftRight_eq_div_pow, pow_mul]
  rfl

/-- The pattern of an integer is the integer modulo 2^64. -/
theorem toNat_ofInt64 (i : Int) : ((BitVec.ofInt 64 i).toNat : Int) = i % 2 ^ 64 := by
  rw [BitVec.toNat_ofInt, Int.toNat_of_nonneg (Int.emod_nonneg i (by decide))]
  rfl

/-- Settles O31: the high bytes are those of the zero half, the low ones the digits of the pattern in base 256. -/
theorem packedIntegerLayout : Obligations.PackedIntegerLayout := by
  refine fun i s => ⟨_, exec_pk64 _ s, fun j => bytesOf_zext128_high _ j j.isLt, fun j => ?_,
    extractLsb'_high_zext128 _, low64_zext128 _⟩
  rw [doneValue_rv, bytesOf_zext128_low_toNat _ j j.isLt, ← toNat_ofInt64]
  norm_cast

/-! ### The compact string of a packed integer (`41_integer_packer.md` R111) -/

theorem toNat_zext128 (n : IntWord) : (zext128 n).toNat = n.toNat :=
  BitVec.toNat_setWidth_of_le (by decide)

/-- A number below `64 ^ 11` has eleven leading zeros among its 22 digits. -/
theorem compactString_leading_zero {v : Value} (hv : v.toNat < 64 ^ 11) (k : Fin 11) :
    (compactString v)[k.val] = 0x30#8 := by
  have hpow : 64 ^ 11 ≤ 64 ^ (21 - k.val) := Nat.pow_le_pow_right (by decide) (by omega)
  have hcell := compactString_getElem v ⟨k.val, by omega⟩
  rw [Nat.div_eq_of_lt (hv.trans_le hpow)] at hcell
  exact hcell

theorem index_compactString_getElem (v : Value) (k : Fin 22) :
    index (compactString v)[k] = some (Fin.ofNat 64 (v.toNat / 64 ^ (21 - k.val))) := by
  rw [compactString_getElem, index_alpha]

/-- Settles O32: the latch of PK64, the digits of a number below 2^64, and the examples. -/
theorem pack64GivesValue : Obligations.Pack64GivesValue := by
  simp only [Obligations.Pack64GivesValue, ← zext128_eq_append]
  refine ⟨fun c => decode_eq_pk64, exec_pk64, fun n k => compactString_leading_zero ?_ k,
    fun n => ⟨_, index_compactString_getElem _ 11, ?_⟩, by decide, by decide, by decide⟩
  · rw [toNat_zext128]
    exact n.isLt.trans (by decide)
  · have htop : n.toNat / 64 ^ 10 ≤ 15 := by omega
    rw [toNat_zext128]
    exact (Nat.mod_le _ _).trans htop

/-! ### Unpacking, and the 32-bit forms -/

/-- Bit 63 of a value is the sign of the integer in its low half. -/
theorem msb_low64 (v : Value) : (low64 v).msb = v.getLsbD 63 := by
  rw [BitVec.msb_eq_getLsbD_last, getLsbD_low64]
  rfl

/-- Settles O34: the low half with its sign, what PK64 packed, and a value with a high half that is lost. -/
theorem unpack64GivesInteger : Obligations.Unpack64GivesInteger := by
  refine ⟨fun c => decode_eq_up64, fun high low s => ?_,
    fun v s => ⟨_, exec_up64 v s, toNat_low64 v, ?_⟩,
    fun n s s' => ⟨_, _, exec_pk64 n s, exec_up64 _ s', low64_zext128 n⟩,
    1#64 ++ 0#64, State.reset, State.reset, _, _, exec_up64 _ _, exec_pk64 _ _, by decide⟩
  · rw [exec_up64, low64_append]
    rfl
  · rw [doneInt_ri, ← msb_low64, BitVec.msb_eq_toInt, decide_eq_true_iff]

/-- Settles O35: the latch of PK32, the bytes of its operand, and that PK64 of the same number packs the same
pattern. -/
theorem pack32SignExtends : Obligations.Pack32SignExtends := by
  refine ⟨fun c => decode_eq_pk32, fun high n s => ?_, fun n j => ?_,
    fun i s s' hlo hhi => ⟨_, _, exec_pk32 _ s, exec_pk64 _ s', ?_⟩, fun s => ⟨_, exec_pk32 _ s, rfl⟩⟩
  · rw [exec_pk32, int32_append, zext128_sext64_eq_append]
    rfl
  · rw [bytesOf_getElem _ _ (by omega), BitVec.extractLsb'_append_eq_of_add_le (by omega),
      show 120 - 8 * (12 + j.val) = 24 - 8 * j.val by omega]
  · rw [doneValue_rv, doneValue_rv, int32_append, sext64_ofInt hlo hhi]

/-- Settles O36: the latch of UP32, the corner cases, and the range in which the cut to 32 bits loses nothing. -/
theorem unpack32TruncatesAndSignExtends : Obligations.Unpack32TruncatesAndSignExtends := by
  refine ⟨fun c => decode_eq_up32, fun high n s => ?_, fun s => ⟨_, exec_up32 _ s, rfl⟩,
    fun s => ⟨_, exec_up32 _ s, rfl⟩, fun s => ⟨_, exec_up32 _ s, rfl⟩,
    fun v s s' => ⟨_, _, exec_up32 v s, exec_up64 v s', ?_⟩⟩
  · rw [exec_up32, low32_append, sext64_eq_append]
    rfl
  · rw [doneInt_ri, doneInt_ri, low32_eq_int32_low64]
    exact sext64_int32_eq_iff _

end Sys2Proof.Machine

namespace Sys2Proof.Script

open Sys2Proof.Machine

/-! ### Integers through the codec (`30_encoding.md` R66, `41_integer_packer.md` R116) -/

/-- Settles O33: a zero packs to nil, which ENC refuses alone and as the second line of `ENCI64`. -/
theorem zeroIsPackedAndRefusedByEncoder : Obligations.ZeroIsPackedAndRefusedByEncoder :=
  ⟨exec_pk64 0#64, exec_pk32 0#64, exec_enc_nil,
    fun s => runItem_pseudo_of_zero_value rfl (runLine_eq_exec (.pk64 (.decimal 0)) s)⟩

theorem zext128_eq_zero_iff (n : IntWord) : zext128 n = 0#128 ↔ n = 0#64 := by
  rw [← BitVec.toNat_inj, ← BitVec.toNat_inj, toNat_zext128]
  rfl

/-- `ENCI64` of an integer other than 0 leaves the compact string of its packed pattern. -/
theorem runItem_enci64_of_ne {a : IntArg} {n : IntWord} {s : State} (ha : a.assemble64 s.rsp = n)
    (hne : n ≠ 0#64) : runItem (.pseudo (.enci64 a)) s =
      .next (doneString (compactString (zext128 n)) (doneValue (zext128 n) s)) := by
  subst ha
  rw [runItem_pseudo_of_ok rfl (runLine_eq_exec (.pk64 a) s) rfl, runLine_eq_exec]
  exact exec_enc_of_ne (mt (zext128_eq_zero_iff _).1 hne) _

/-- `DECI64 s=RS` of a compact string in the latch unpacks its value. -/
theorem runItem_deci64_doneString (v : Value) (s : State) :
    runItem (.pseudo (.deci64 .rs)) (doneString (compactString v) s) =
      .next (doneInt (low64 v) (doneValue v (doneString (compactString v) s))) := by
  have hdec : runLine (.dec .rs) (doneString (compactString v) s) = _ :=
    (runLine_eq_exec _ _).trans (exec_dec_compactString v _)
  rw [runItem_pseudo_of_ok rfl hdec rfl, runLine_eq_exec]
  exact exec_up64 v _

/-- `DEC` followed by a line that always ends `OK` ends with the status of the DEC. -/
theorem runItem_pseudo_status {p : Pseudo} {l l' : Line} {s w : State} (hp : p.expand = [l, l'])
    (hl : runLine l s = .next w) (hl' : ∃ t, runLine l' w = .next t ∧ t.rsp.status = 0#3) :
    ∃ t, runItem (.pseudo p) s = .next t ∧ t.rsp.status = w.rsp.status := by
  by_cases hw : w.rsp.status = 0#3
  · obtain ⟨t, ht, hstatus⟩ := hl'
    exact ⟨t, (runItem_pseudo_of_ok hp hl hw).trans ht, hstatus.trans hw.symm⟩
  · exact ⟨w, runItem_pseudo_of_error hp hl hw, rfl⟩

/-- PK32 reads back the operand that the assembler put in the low half of the port (`30_encoding.md` R65). -/
theorem int32_setWidth (n : BitVec 32) : int32 (n.setWidth 64) = n := by
  rw [int32, BitVec.extractLsb'_setWidth_of_le (by decide), BitVec.extractLsb'_eq_self]

/-- Settles O51: unpacking what was packed at each width, the two sequences through `compactString`, the examples, and
the status of `DECI64` and `DECI32`. -/
theorem integerRoundTrips : Obligations.IntegerRoundTrips := by
  refine ⟨fun n s s' => ⟨_, _, exec_pk64 n s, exec_up64 _ s', low64_zext128 n⟩,
    fun i s s' hlo hhi => ⟨_, _, _, exec_pk32 _ s, exec_up32 _ s', exec_up64 _ s', ?_, ?_⟩,
    fun v s s' => ⟨_, _, exec_up64 v s, exec_pk64 _ s', zext128_low64_eq_iff v⟩,
    fun n s s' => ⟨_, _, exec_pk64 n s, exec_up32 _ s', ?_⟩,
    fun i s hlo hhi hne => ?_, fun s => ?_, fun a s => ?_⟩
  · rw [doneInt_ri, doneValue_rv, low32_zext128, int32_setWidth, int32_sext64, toInt_sext64, toInt_ofInt32 hlo hhi]
  · rw [doneInt_ri, doneValue_rv, low64_zext128, int32_setWidth, toInt_sext64, toInt_ofInt32 hlo hhi]
  · rw [doneInt_ri, doneValue_rv, low32_zext128, sext64_int32_eq_iff]
  · have hi := toInt_ofInt64 hlo hhi
    have hpattern : BitVec.ofInt 64 i ≠ 0#64 := fun h => hne (by rw [← hi, h]; rfl)
    exact ⟨_, _, runItem_enci64_of_ne rfl hpattern, rfl, validString_compactString _,
      runItem_deci64_doneString _ _, rfl, by rw [doneInt_ri, low64_zext128]; exact hi⟩
  · refine ⟨_, _, runItem_enci64_of_ne (n := 123456789#64) rfl (by decide), ?_,
      runItem_enci64_of_ne (n := 26#64) rfl (by decide), ?_⟩
    · rw [doneString_rs]
      decide
    · rw [doneString_rs]
      decide
  · obtain ⟨w, hw⟩ := runLine_eq_next (.dec a) s
    obtain ⟨t, ht, htstatus⟩ := runItem_pseudo_status (p := .deci64 a) rfl hw ⟨_, runLine_eq_exec _ w, rfl⟩
    obtain ⟨u, hu, hustatus⟩ := runItem_pseudo_status (p := .deci32 a) rfl hw ⟨_, runLine_eq_exec _ w, rfl⟩
    exact ⟨t, u, w, ht, hu, hw, htstatus, hustatus⟩

end Sys2Proof.Script

/-! ## Proofs: the status an instruction ends with, and what an error leaves (`60_exceptions.md`) -/

namespace Sys2Proof.Machine

/-! ### The status an instruction ends with -/

/-- The status an instruction ends with (`60_exceptions.md` R150); `exec_endStatus` ties it to `exec`. -/
def endStatus : Instr → Status
  | .enc v => if v = 0#128 then .invalidValue else .ok
  | .dec len chars => check len chars
  | .val len chars => check len chars
  | .pk64 _ => .ok
  | .up64 _ => .ok
  | .pk32 _ => .ok
  | .up32 _ => .ok
  | .rsvd7 => .illegalOp

theorem endStatus_enc_of_ne {v : Value} (hv : v ≠ 0#128) : endStatus (.enc v) = .ok := if_neg hv

/-- An instruction answers a next state that shows its status and whose pending inputs are the old ones. -/
theorem exec_endStatus (i : Instr) (s : State) : ∃ t, exec i s = .next t ∧ t.rsp.done = true ∧
    t.inputs = s.inputs ∧ t.rsp.status = (endStatus i).code := by
  cases i with
  | enc v =>
    by_cases hv : v = 0#128
    · subst hv
      exact ⟨_, exec_enc_nil s, rfl, rfl, rfl⟩
    · exact ⟨_, exec_enc_of_ne hv s, rfl, rfl, by rw [endStatus_enc_of_ne hv, doneString_status]⟩
  | dec len chars =>
    cases h : readString len chars with
    | error e => exact ⟨_, exec_dec_of_error h s, rfl, rfl, congrArg Status.code (check_of_error h).symm⟩
    | ok d => exact ⟨_, exec_dec_of_ok h s, rfl, rfl, congrArg Status.code (check_of_ok h).symm⟩
  | val len chars => exact ⟨_, exec_val_eq_raise_check len chars s, rfl, rfl, rfl⟩
  | pk64 n => exact ⟨_, exec_pk64 n s, rfl, rfl, rfl⟩
  | up64 v => exact ⟨_, exec_up64 v s, rfl, rfl, rfl⟩
  | pk32 n => exact ⟨_, exec_pk32 n s, rfl, rfl, rfl⟩
  | up32 v => exact ⟨_, exec_up32 v s, rfl, rfl, rfl⟩
  | rsvd7 => exact ⟨_, exec_rsvd7 s, rfl, rfl, rfl⟩

/-- An error is the whole of what its instruction does (`60_exceptions.md` R155). -/
theorem exec_of_endStatus_ne_ok {i : Instr} (hne : endStatus i ≠ .ok) (s : State) :
    exec i s = .next (raise (endStatus i) s) := by
  cases i with
  | enc v =>
    by_cases hv : v = 0#128
    · subst hv
      exact exec_enc_nil s
    · exact absurd (endStatus_enc_of_ne hv) hne
  | dec len chars => exact exec_dec_of_check_ne_ok hne s
  | val len chars => exact exec_val_eq_raise_check len chars s
  | pk64 n => exact absurd rfl hne
  | up64 v => exact absurd rfl hne
  | pk32 n => exact absurd rfl hne
  | up32 v => exact absurd rfl hne
  | rsvd7 => exact exec_rsvd7 s

/-! ### The table of endings (`60_exceptions.md` R161) -/

theorem check_mem (len : Len) (chars : Chars) :
    check len chars ∈ [Status.ok, .invalidLength, .invalidCharacter, .outOfRange] := by
  rw [check_eq_ite]
  split_ifs <;> decide

theorem endStatus_mem_mayEndWith (i : Instr) : endStatus i ∈ mayEndWith i.opcode := by
  cases i with
  | enc v =>
    by_cases hv : v = 0#128
    · subst hv
      decide
    · rw [endStatus_enc_of_ne hv]
      exact List.mem_cons_self
  | dec len chars => exact check_mem len chars
  | val len chars => exact check_mem len chars
  | pk64 n => exact List.mem_cons_self
  | up64 v => exact List.mem_cons_self
  | pk32 n => exact List.mem_cons_self
  | up32 v => exact List.mem_cons_self
  | rsvd7 => exact List.mem_cons_self

/-- Every answer of the check is given to some string: the all-0 string, the empty one, one of cells outside the
alphabet, and the one that begins with `4`. -/
theorem exists_check_eq {st : Status} (h : st ∈ [Status.ok, .invalidLength, .invalidCharacter, .outOfRange]) :
    ∃ len chars, check len chars = st := by
  simp only [List.mem_cons, List.not_mem_nil, or_false] at h
  rcases h with rfl | rfl | rfl | rfl
  · exact ⟨22#8, allZeroString, check_allZeroString⟩
  · exact ⟨0#8, zeroChars, check_eq_invalidLength_iff.2 (by decide)⟩
  · exact ⟨22#8, zeroChars, check_eq_invalidCharacter_iff.2 ⟨rfl, 0, by decide⟩⟩
  · exact ⟨22#8, allZeroString.set 0 0x34#8,
      check_eq_outOfRange_iff.2 ⟨rfl, by decide, 4, by decide, le_refl 4⟩⟩

theorem exists_endStatus_eq {op : OpCode} {st : Status} (h : st ∈ mayEndWith op) :
    ∃ i : Instr, i.opcode = op ∧ endStatus i = st := by
  rcases opcode_cases op with rfl | rfl | rfl | rfl | rfl | rfl | rfl | rfl
  · obtain rfl | rfl : st = .ok ∨ st = .invalidValue := by simpa [mayEndWith] using h
    · exact ⟨.enc 1#128, rfl, by decide⟩
    · exact ⟨.enc 0#128, rfl, by decide⟩
  · obtain ⟨len, chars, hcheck⟩ := exists_check_eq h
    exact ⟨.dec len chars, rfl, hcheck⟩
  · obtain ⟨len, chars, hcheck⟩ := exists_check_eq h
    exact ⟨.val len chars, rfl, hcheck⟩
  · exact ⟨.pk64 0#64, rfl, (List.mem_singleton.1 h).symm⟩
  · exact ⟨.up64 0#128, rfl, (List.mem_singleton.1 h).symm⟩
  · exact ⟨.pk32 0#64, rfl, (List.mem_singleton.1 h).symm⟩
  · exact ⟨.up32 0#128, rfl, (List.mem_singleton.1 h).symm⟩
  · exact ⟨.rsvd7, rfl, (List.mem_singleton.1 h).symm⟩

theorem exists_exec_status {op : OpCode} {st : Status} (h : st ∈ mayEndWith op) :
    ∃ (i : Instr) (s t : State), i.opcode = op ∧ exec i s = .next t ∧ t.rsp.status = st.code := by
  obtain ⟨i, hop, rfl⟩ := exists_endStatus_eq h
  obtain ⟨t, hexec, -, -, hstatus⟩ := exec_endStatus i State.reset
  exact ⟨i, _, t, hop, hexec, hstatus⟩

/-- Settles O40: the row of an operation holds the status of each of its instructions, and every entry has one. -/
theorem endingsOfEachOperation : Obligations.EndingsOfEachOperation := by
  refine ⟨fun i s => ?_, fun op st => exists_exec_status⟩
  obtain ⟨t, hexec, -, -, hstatus⟩ := exec_endStatus i s
  exact ⟨t, _, hexec, hstatus, endStatus_mem_mayEndWith i⟩

/-- The columns of the table: which operations a code is written by (`60_exceptions.md` R150). -/
theorem code_of_mem_mayEndWith (op : OpCode) : ∀ st ∈ mayEndWith op, st.code ≠ 5#3 ∧ st.code ≠ 6#3 ∧
    (st.code = 1#3 ∨ st.code = 2#3 ∨ st.code = 3#3 → op = 0b001#3 ∨ op = 0b010#3) ∧
    (st.code = 4#3 → op = 0b000#3) ∧ (st.code = 7#3 ↔ op = 0b111#3) := by
  revert op
  decide

theorem ok_mem_mayEndWith (op : OpCode) : op ≠ 0b111#3 → Status.ok ∈ mayEndWith op := by
  revert op
  decide

theorem opcode_eq_seven_iff (i : Instr) : i.opcode = 0b111#3 ↔ i = .rsvd7 := by
  cases i <;> simp [Instr.opcode]

/-- Settles O39: the numbers by definition, the writers of each code from the columns of the table of endings. -/
theorem statusNumbersAndWriters : Obligations.StatusNumbersAndWriters := by
  refine ⟨⟨rfl, rfl, rfl, rfl, rfl, rfl, rfl⟩, fun i s => ?_,
    fun op hop => exists_exec_status (ok_mem_mayEndWith op hop)⟩
  obtain ⟨t, hexec, -, -, hstatus⟩ := exec_endStatus i s
  refine ⟨t, hexec, ?_⟩
  rw [hstatus, ← opcode_eq_seven_iff]
  exact code_of_mem_mayEndWith i.opcode _ (endStatus_mem_mayEndWith i)

/-! ### The errors of a string operand -/

/-- DEC and VAL both show the answer of the check, so what decides it decides their status. -/
theorem exec_string_status_iff {len : Len} {chars : Chars} {e : Status} {p : Prop} (h : check len chars = e ↔ p)
    (s : State) : ∃ t u, exec (.dec len chars) s = .next t ∧ exec (.val len chars) s = .next u ∧
      (t.rsp.status = e.code ↔ p) ∧ (u.rsp.status = e.code ↔ p) := by
  obtain ⟨t, ht, hstatus⟩ := exec_dec_status len chars s
  have hcode : (check len chars).code = e.code ↔ p := (code_eq_code_iff _ _).trans h
  exact ⟨t, _, ht, exec_val_eq_raise_check len chars s, by rw [hstatus, hcode], hcode⟩

/-- Settles O27: the first test of the check; with another length the cells are not read. -/
theorem invalidLengthExactlyOnWrongLength : Obligations.InvalidLengthExactlyOnWrongLength := fun _ _ s =>
  ⟨exec_string_status_iff check_eq_invalidLength_iff s, fun hlen _ =>
    ⟨exec_dec_congr (absurd · hlen) s, exec_val_congr (absurd · hlen) s⟩⟩

/-- Settles O28: the second test of the check. -/
theorem invalidCharacterExactlyOnForeignCell : Obligations.InvalidCharacterExactlyOnForeignCell := fun _ _ s =>
  exec_string_status_iff check_eq_invalidCharacter_iff s

/-- Settles O29: the third test of the check; no other operation has the status in its row of the table. -/
theorem outOfRangeExactlyOnLeadingDigit : Obligations.OutOfRangeExactlyOnLeadingDigit := by
  refine ⟨fun _ _ s => exec_string_status_iff check_eq_outOfRange_iff s, fun i s => ?_⟩
  obtain ⟨t, hexec, -, -, hstatus⟩ := exec_endStatus i s
  obtain ⟨-, -, hwriters, -, -⟩ := code_of_mem_mayEndWith i.opcode _ (endStatus_mem_mayEndWith i)
  exact ⟨t, hexec, fun h3 => hwriters (.inr (.inr (hstatus.symm.trans h3)))⟩

/-- Settles O41: ENC has one error, and the chain of tests is the check. -/
theorem firstErrorIsReported : Obligations.FirstErrorIsReported := by
  refine ⟨fun v s => ?_, fun len chars s => ?_⟩
  · by_cases hv : v = 0#128
    · subst hv
      exact ⟨_, exec_enc_nil s, fun _ => rfl⟩
    · exact ⟨_, exec_enc_of_ne hv s, absurd rfl⟩
  · obtain ⟨t, ht, hstatus⟩ := exec_dec_status len chars s
    refine ⟨t, _, ht, exec_val_eq_raise_check len chars s, hstatus, ?_⟩
    rw [raise_status, check_eq_ite]
    simp only [apply_ite Status.code]
    rfl

/-! ### The nil value -/

theorem bytesOf_zero (i : Nat) (hi : i < 16) : (bytesOf 0#128)[i] = 0#8 := by
  rw [bytesOf_getElem _ _ hi, BitVec.extractLsb'_zero]

theorem eq_zero_iff_bytesOf (v : Value) : v = 0#128 ↔ ∀ i : Fin 16, (bytesOf v)[i] = 0#8 := by
  constructor
  · rintro rfl i
    exact bytesOf_zero i i.isLt
  · intro h
    have hbytes : bytesOf v = bytesOf 0#128 := by
      ext i hi : 1
      exact (h ⟨i, hi⟩).trans (bytesOf_zero i hi).symm
    rw [← valueOf_bytesOf v, hbytes, valueOf_bytesOf]

/-- Only ENC has the status in its row of the table, and only for nil. -/
theorem eq_enc_zero_of_endStatus {i : Instr} (h : endStatus i = .invalidValue) : i = .enc 0#128 := by
  obtain ⟨-, -, -, hwriter, -⟩ := code_of_mem_mayEndWith i.opcode _ (endStatus_mem_mayEndWith i)
  have hop : i.opcode = 0b000#3 := hwriter (congrArg Status.code h)
  cases i with
  | enc v =>
    by_contra hne
    rw [endStatus_enc_of_ne fun hv => hne (congrArg Instr.enc hv)] at h
    cases h
  | _ => simp [Instr.opcode] at hop

/-- Settles O30: both endings of ENC, the only instruction with the status, and zero as an ordinary number. -/
theorem invalidValueExactlyOnNil : Obligations.InvalidValueExactlyOnNil := by
  refine ⟨fun v s => ?_, eq_zero_iff_bytesOf, fun i s => ?_, fun i s hi => ?_⟩
  · by_cases hv : v = 0#128
    · subst hv
      exact ⟨_, exec_enc_nil s, iff_of_true rfl rfl, by simp [Status.code], fun _ => noResult_raise _ s⟩
    · exact ⟨_, exec_enc_of_ne hv s, by simp [Status.code, hv], iff_of_true rfl hv, fun h => absurd h hv⟩
  · obtain ⟨t, hexec, -, -, hstatus⟩ := exec_endStatus i s
    refine ⟨t, hexec, fun h4 => eq_enc_zero_of_endStatus ?_⟩
    exact (code_eq_code_iff _ .invalidValue).1 (hstatus.symm.trans h4)
  · rcases hi with rfl | rfl | rfl | rfl | rfl
    · exact ⟨_, exec_dec_allZeroString s, rfl, rfl, rfl⟩
    · exact ⟨_, exec_pk64 0#64 s, rfl, rfl, rfl⟩
    · exact ⟨_, exec_pk32 0#64 s, rfl, rfl, rfl⟩
    · exact ⟨_, exec_up64 0#128 s, rfl, rfl, rfl⟩
    · exact ⟨_, exec_up32 0#128 s, rfl, rfl, rfl⟩

/-! ### What an error leaves -/

/-- Settles O42: an error is `raise`, which leaves no result. -/
theorem errorLeavesNoResult : Obligations.ErrorLeavesNoResult := by
  intro i s
  obtain ⟨t, hexec, hdone, hinputs, hstatus⟩ := exec_endStatus i s
  refine ⟨t, hexec, hdone, hinputs, fun hne => ?_⟩
  have herror : endStatus i ≠ .ok := fun h => hne (hstatus.trans (congrArg Status.code h))
  obtain rfl : t = raise (endStatus i) s := by
    simpa [hexec] using exec_of_endStatus_ne_ok herror s
  exact noResult_raise _ s

/-- Settles O43: only the latch differs after an instruction, and the latch is no operand of the next one (R19). -/
theorem errorLeavesNoResidue : Obligations.ErrorLeavesNoResidue := by
  intro i j s
  obtain ⟨r, -, hexec⟩ := exec_eq_latch i
  exact ⟨_, hexec s, fun _ => ⟨exec_eq_next_of_inputs j rfl, _, hexec _, rfl⟩⟩

end Sys2Proof.Machine

/-! ## Proofs: the edge with reset asserted, and the command at the edge after it (`70_reset_and_hazards.md` R180) -/

namespace Sys2Proof.Machine

section

variable {s : State} {p : Pins} {rest : List Pins} (h : s.inputs = p :: rest)
include h

/-- The reset is sampled before `cmd_valid`, so the command ports do not matter. -/
theorem step_of_rst (hrst : p.rst = true) : step s = .next (resetLatch { s with inputs := rest }) := by
  simp only [step, sample_cons s p rest h, requestOf_reset p hrst]

theorem step_of_command (hrst : p.rst = false) (hvalid : p.cmdValid = true) :
    step s = exec (decode p.command) { s with inputs := rest } := by
  simp only [step, sample_cons s p rest h, requestOf_command p hrst hvalid]

end

/-- Settles O2: the reset edge writes the reset latch, and the edge after it runs the command as from any state. -/
theorem resetEdgeWipesLatch : Obligations.ResetEdgeWipesLatch := fun _ _ _ h hrst =>
  ⟨step_of_rst h hrst, fun _ _ hrest hrst' hvalid => step_of_command hrest hrst' hvalid⟩

end Sys2Proof.Machine

/-! ## Proofs: a command as one number, and the character ports -/

namespace Sys2Proof

/-! ### The ports of a command in its number (log 3) -/

/-- A port of the number is a slice of its bits. -/
theorem ofNat_shiftRight_toNat {w : Nat} (x : BitVec w) (start len : Nat) :
    BitVec.ofNat len (x.toNat >>> start) = x.extractLsb' start len := rfl

/-- The command on the first 379 bits of a number is the one that was written there. -/
@[simp] theorem ofNat_toWord (c : Command) : Command.ofNat c.toWord.toNat = c := by
  have hop : BitVec.ofNat 3 c.toWord.toNat = c.op := by
    rw [Command.toWord, BitVec.ofNat_toNat, BitVec.setWidth_append_eq_right]
  have hvalue : c.toWord.extractLsb' 3 128 = c.value :=
    (BitVec.extractLsb'_append_eq_of_le le_rfl).trans BitVec.extractLsb'_append_eq_right
  have hlen : c.toWord.extractLsb' 131 8 = c.len := by
    rw [Command.toWord, BitVec.extractLsb'_append_eq_of_le (by decide), BitVec.extractLsb'_append_eq_of_le le_rfl]
    exact BitVec.extractLsb'_append_eq_right
  have hchars : c.toWord.extractLsb' 139 176 = packChars c.chars := by
    rw [Command.toWord, BitVec.extractLsb'_append_eq_of_le (by decide),
      BitVec.extractLsb'_append_eq_of_le (by decide), BitVec.extractLsb'_append_eq_of_le le_rfl]
    exact BitVec.extractLsb'_append_eq_right
  have hint : c.toWord.extractLsb' 315 64 = c.int := by
    rw [Command.toWord, BitVec.extractLsb'_append_eq_of_le (by decide),
      BitVec.extractLsb'_append_eq_of_le (by decide), BitVec.extractLsb'_append_eq_of_le (by decide)]
    exact BitVec.extractLsb'_append_eq_left
  simp only [Command.ofNat, ofNat_shiftRight_toNat, hop, hvalue, hlen, hchars, hint, unpackChars_packChars]

/-- A number has no bit beyond a command's exactly when it is below 2^379. -/
theorem shiftRight_commandBits_eq_zero_iff (w : Nat) : w >>> Config.commandBits = 0 ↔ w < 2 ^ 379 := by
  rw [Nat.shiftRight_eq_div_pow, Nat.div_eq_zero_iff_lt (Nat.two_pow_pos _)]

theorem decodeNat_of_lt {w : Nat} (h : w < 2 ^ 379) : decodeNat w = .ok (decode (Command.ofNat w)) :=
  if_pos ((shiftRight_commandBits_eq_zero_iff w).2 h)

theorem lt_of_decodeNat {w : Nat} {i : Instr} (h : decodeNat w = .ok i) : w < 2 ^ 379 := by
  by_contra hw
  rw [decodeNat, if_neg (mt (shiftRight_commandBits_eq_zero_iff w).1 hw)] at h
  cases h

/-- The number of a command decodes to what the command decodes to. -/
@[simp] theorem decodeNat_toWord (c : Command) : decodeNat c.toWord.toNat = .ok (decode c) := by
  have hok : decodeNat c.toWord.toNat = .ok (decode (Command.ofNat c.toWord.toNat)) :=
    if_pos (Nat.shiftRight_eq_zero _ _ c.toWord.isLt)
  rw [hok, ofNat_toWord]

/-- Settles O8: `decode` undoes `encode`, and both the signals and the number carry the command whole. -/
theorem decodeOfEncodeIsIdentity : Obligations.DecodeOfEncodeIsIdentity := fun i _ =>
  ⟨decode_encode i, by rw [Machine.command_pins, decode_encode], by rw [encodeWord, decodeNat_toWord, decode_encode]⟩

/-- Encoding writes back the ports that decoding took (`30_encoding.md` R53). -/
theorem agreeOnRead_encode_decode (c : Command) : agreeOnRead (encode (decode c)) c := by
  rcases opcode_cases c.op with h | h | h | h | h | h | h | h
  · simp [agreeOnRead, decode_eq_enc h, encode, h]
  · simp [agreeOnRead, decode_eq_dec h, encode, h]
  · simp [agreeOnRead, decode_eq_val h, encode, h]
  · simp [agreeOnRead, decode_eq_pk64 h, encode, h]
  · simp [agreeOnRead, decode_eq_up64 h, encode, h]
  · simp [agreeOnRead, decode_eq_pk32 h, encode, h]
  · simp [agreeOnRead, decode_eq_up32 h, encode, h]
  · simp [agreeOnRead, decode_eq_rsvd7 h, encode, h]

/-- Settles O9: code by code for the ports; a number decodes when the test of its high bits lets it through. -/
theorem encodeOfDecodeKeepsReadPorts : Obligations.EncodeOfDecodeKeepsReadPorts :=
  ⟨fun c => ⟨agreeOnRead_encode_decode c, decodeNat_toWord c⟩,
    fun _ => ⟨fun ⟨_, h⟩ => lt_of_decodeNat h, fun h => ⟨_, decodeNat_of_lt h⟩⟩⟩

/-- Settles O7: each word is evaluated. -/
theorem writtenOutWordsDecode : Obligations.WrittenOutWordsDecode :=
  ⟨by decide, by decide, by decide, by decide, by decide⟩

/-! ### The character ports (`30_encoding.md` R61) -/

/-- Bit `j` of cell `k` read off the port is bit `168 - 8k + j` of the port. -/
theorem unpackChars_getLsbD (p : BitVec 176) (k j : Nat) (hk : k < 22) (hj : j < 8) :
    (unpackChars p)[k].getLsbD j = p.getLsbD (168 - 8 * k + j) := by
  rw [unpackChars_getElem p k hk, BitVec.getLsbD_extractLsb']
  simp [hj]

/-- Settles O11: one fact about the bits of a port for both directions, since the port out reads back as the latch's
cells. -/
theorem characterPortsCarryCells : Obligations.CharacterPortsCarryCells := by
  refine ⟨fun p k j => unpackChars_getLsbD p.cmdChars k j k.isLt j.isLt, fun s k j => ?_, Machine.command_pins,
    fun s => ⟨rfl, rfl, rfl, rfl, rfl⟩⟩
  have hbit := unpackChars_getLsbD (packChars s.rsp.rs) k j k.isLt j.isLt
  rw [unpackChars_packChars] at hbit
  exact hbit.symm

end Sys2Proof

/-! ## Proofs: one edge, and a run of edges (`30_encoding.md` R61, `70_reset_and_hazards.md` R187) -/

namespace Sys2Proof.Machine

/-! ### The edges that run no reset -/

theorem step_of_idle {s : State} {p : Pins} {rest : List Pins} (h : s.inputs = p :: rest) (hrst : p.rst = false)
    (hvalid : p.cmdValid = false) : step s = .next { s with inputs := rest } := by
  simp only [step, sample_cons s p rest h, requestOf_idle p hrst hvalid]

theorem step_of_no_inputs {s : State} (h : s.inputs = []) : step s = .next s := by
  simp only [step, sample_nil s h]

/-- Settles O3: an edge that asks for nothing, and no edge at all. -/
theorem idleEdgeKeepsLatch : Obligations.IdleEdgeKeepsLatch :=
  ⟨fun _ _ _ => step_of_idle, fun _ => step_of_no_inputs⟩

/-- Settles O4: the edge is sampled as its command. -/
theorem stepRunsPresentedCommand : Obligations.StepRunsPresentedCommand := fun _ _ _ => step_of_command

/-- A table word that decodes at all decodes to what the command on its bits decodes to. -/
theorem decode_of_decodeTableWord {nbits w : Nat} {i : Instr} (h : decodeTableWord nbits w = some i) :
    decode (Command.ofNat (tableWord nbits w)) = i := by
  unfold decodeTableWord at h
  split at h
  case h_1 j hj =>
    rw [decodeNat_of_lt (lt_of_decodeNat hj)] at hj
    exact (Except.ok.inj hj).trans (Option.some.inj h)
  case h_2 => cases h

/-- Settles O5: the signals of a command carry it whole, and the host presents the command of a table word. -/
theorem presentedWordRuns : Obligations.PresentedWordRuns :=
  ⟨fun c s => step_present s c, fun s nbits w i h => by
    rw [State.withFetchWord, step_present, decode_of_decodeTableWord h]⟩

/-! ### What an event leaves in the latch -/

/-- What an event, if there is one, makes of the latch: nothing, the reset value, or the response of the command;
`step_latchAfter` ties it to `step`. -/
def LatchAfter (e : Option Pins) (before after : Rsp) : Prop :=
  match e with
  | none => after = before
  | some p =>
    if p.rst = true then after = State.reset.rsp
    else ∃ u, exec (decode p.command) State.reset = .next u ∧ after = u.rsp

section

variable {p : Pins} {r r' : Rsp}

theorem latchAfter_of_rst (hrst : p.rst = true) : LatchAfter (some p) r r' ↔ r' = Rsp.reset := by
  simp [LatchAfter, hrst]

theorem latchAfter_of_command (hrst : p.rst = false) :
    LatchAfter (some p) r r' ↔ ∃ u, exec (decode p.command) State.reset = .next u ∧ r' = u.rsp := by
  simp [LatchAfter, hrst]

/-- The response of a command is the same from every state (`10_state.md` R19). -/
theorem latchAfter_of_exec (hrst : p.rst = false) {s t : State} (h : exec (decode p.command) s = .next t) :
    LatchAfter (some p) r t.rsp := by
  obtain ⟨l, -, hexec⟩ := exec_eq_latch (decode p.command)
  obtain rfl : { s with rsp := l } = t := by simpa [hexec] using h
  exact (latchAfter_of_command hrst).2 ⟨_, hexec State.reset, rfl⟩

end

/-- Of two events after each other the second one counts, where there is one (`10_state.md` R19). -/
theorem LatchAfter.trans {e e' : Option Pins} {r r' r'' : Rsp} (h : LatchAfter e r r') (h' : LatchAfter e' r' r'') :
    LatchAfter (e'.or e) r r'' := by
  cases e' with
  | none =>
    obtain rfl : r'' = r' := h'
    exact h
  | some p => exact h'

/-- Everything a step does: it answers a next state, takes the coming edge away, and the latch is as that edge's event
leaves it. -/
theorem step_latchAfter (s : State) : ∃ t, step s = .next t ∧ t.inputs = s.inputs.tail ∧
    LatchAfter (s.inputs.head?.filter isEvent) s.rsp t.rsp := by
  cases h : s.inputs with
  | nil => exact ⟨s, step_of_no_inputs h, h, rfl⟩
  | cons p rest =>
    cases hrst : p.rst with
    | true =>
      refine ⟨_, step_of_rst h hrst, rfl, ?_⟩
      rw [List.head?_cons, Option.filter_some_pos (by simp [isEvent, hrst])]
      exact (latchAfter_of_rst hrst).2 rfl
    | false =>
      cases hvalid : p.cmdValid with
      | true =>
        obtain ⟨t, hexec, -, hinputs, -⟩ := exec_endStatus (decode p.command) { s with inputs := rest }
        refine ⟨t, (step_of_command h hrst hvalid).trans hexec, hinputs, ?_⟩
        rw [List.head?_cons, Option.filter_some_pos (by simp [isEvent, hvalid])]
        exact latchAfter_of_exec hrst hexec
      | false =>
        refine ⟨_, step_of_idle h hrst hvalid, rfl, ?_⟩
        rw [List.head?_cons, Option.filter_some, if_neg (by simp [isEvent, hrst, hvalid])]
        rfl

/-! ### Runs -/

theorem run_succ_of_step {s s' : State} (h : step s = .next s') (k : Nat) :
    Host.Core.run core (k + 1) s = Host.Core.run core k s' := by
  have hstep : core.step s = .next s' := h
  simp only [Host.Core.run, hstep]

/-- A run goes on, whatever is shown to it (`70_reset_and_hazards.md` R187). -/
theorem run_eq_next (k : Nat) : ∀ s : State, ∃ t : State, Host.Core.run core k s = .next t := by
  induction k with
  | zero => exact fun s => ⟨s, rfl⟩
  | succ k ih =>
    intro s
    obtain ⟨s', hstep, -, -⟩ := step_latchAfter s
    obtain ⟨t, hrun⟩ := ih s'
    exact ⟨t, (run_succ_of_step hstep k).trans hrun⟩

/-- The last event of a list of edges is the last one of the later edges, or else the first edge if that is one. -/
theorem getLast?_filter_cons (f : Pins → Bool) (p : Pins) (rest : List Pins) :
    ((p :: rest).filter f).getLast? = (rest.filter f).getLast?.or ((some p).filter f) := by
  rw [← List.singleton_append, List.filter_append, List.getLast?_append, List.filter_singleton, Option.filter_some]
  cases f p <;> rfl

/-- A run over the edges shown uses them up and leaves the latch as the last event leaves it. -/
theorem run_latchAfter (edges : List Pins) : ∀ s : State, s.inputs = edges →
    ∃ t : State, Host.Core.run core edges.length s = .next t ∧ t.inputs = [] ∧
      LatchAfter (edges.filter isEvent).getLast? s.rsp t.rsp := by
  induction edges with
  | nil => exact fun s h => ⟨s, rfl, h, rfl⟩
  | cons p rest ih =>
    intro s h
    obtain ⟨s', hstep, hinputs, hlatch⟩ := step_latchAfter s
    rw [h] at hinputs hlatch
    obtain ⟨t, hrun, hdone, hlatch'⟩ := ih s' hinputs
    refine ⟨t, (run_succ_of_step hstep _).trans hrun, hdone, ?_⟩
    rw [getLast?_filter_cons]
    exact hlatch.trans hlatch'

/-- Settles O48: induction on the number of steps, and on the edges shown. -/
theorem runEndsWithLastEvent : Obligations.RunEndsWithLastEvent :=
  ⟨run_eq_next, fun s => run_latchAfter s.inputs s rfl⟩

/-! ### The latch the block can show (`10_state.md` R12) -/

theorem latchWf_reset : latchWf Rsp.reset := by decide

/-- Code 5 belongs to one status alone, which is kept for adapters, and code 6 to none (`60_exceptions.md` R150). -/
theorem code_ne_unwritten {e : Status} :
    e ≠ .parseFailure → e.code ≠ Status.parseFailure.code ∧ e.code ≠ 0b110#3 := by
  cases e <;> decide

theorem latchWf_raise {e : Status} (he : e ≠ .parseFailure) (s : State) : latchWf (raise e s).rsp :=
  ⟨by simp, code_ne_unwritten he, fun _ => noResult_raise e s, .inl ⟨rfl, rfl⟩, .inl rfl⟩

/-- An `OK` may show a valid string, a value or an integer, and no two of them. -/
theorem latchWf_respond_ok {rv : Value} {n : Len} {rs : Chars} {ri : IntWord}
    (hstring : n = 0#8 ∧ rs = zeroChars ∨ validString n rs ∧ rv = 0#128 ∧ ri = 0#64)
    (hone : rv = 0#128 ∨ ri = 0#64) (s : State) : latchWf (respond .ok rv n rs ri s).rsp :=
  ⟨by simp, code_ne_unwritten (e := .ok) (by decide), fun h => absurd rfl h, hstring, hone⟩

theorem latchWf_doneValue (v : Value) (s : State) : latchWf (doneValue v s).rsp :=
  latchWf_respond_ok (.inl ⟨rfl, rfl⟩) (.inr rfl) s

theorem latchWf_doneInt (n : IntWord) (s : State) : latchWf (doneInt n s).rsp :=
  latchWf_respond_ok (.inl ⟨rfl, rfl⟩) (.inl rfl) s

theorem latchWf_doneString {rs : Chars} (h : validString 22#8 rs) (s : State) : latchWf (doneString rs s).rsp :=
  latchWf_respond_ok (.inr ⟨h, rfl, rfl⟩) (.inl rfl) s

/-- No row of the table of endings holds the status kept for the host's adapters (`60_exceptions.md` R161). -/
theorem endStatus_ne_parseFailure (i : Instr) : endStatus i ≠ .parseFailure := by
  intro h
  obtain ⟨h5, -⟩ := code_of_mem_mayEndWith i.opcode _ (endStatus_mem_mayEndWith i)
  exact h5 (congrArg Status.code h)

/-- The response of an instruction is well formed, whatever the latch before it. -/
theorem exec_latchWf (i : Instr) (s : State) : ∃ t, exec i s = .next t ∧ latchWf t.rsp := by
  by_cases hok : endStatus i = .ok
  case neg => exact ⟨_, exec_of_endStatus_ne_ok hok s, latchWf_raise (endStatus_ne_parseFailure i) s⟩
  case pos =>
    cases i with
    | enc v =>
      have hv : v ≠ 0#128 := by rintro rfl; cases hok
      exact ⟨_, exec_enc_of_ne hv s, latchWf_doneString (validString_compactString v) s⟩
    | dec len chars =>
      obtain ⟨d, hd⟩ := (validString_iff_readString len chars).1 (check_eq_ok_iff.1 hok)
      exact ⟨_, exec_dec_of_ok hd s, latchWf_doneValue _ s⟩
    | val len chars =>
      exact ⟨_, exec_val_eq_raise_check len chars s, latchWf_raise (endStatus_ne_parseFailure (.val len chars)) s⟩
    | pk64 n => exact ⟨_, exec_pk64 n s, latchWf_doneValue _ s⟩
    | up64 v => exact ⟨_, exec_up64 v s, latchWf_doneInt _ s⟩
    | pk32 n => exact ⟨_, exec_pk32 n s, latchWf_doneValue _ s⟩
    | up32 v => exact ⟨_, exec_up32 v s, latchWf_doneInt _ s⟩
    | rsvd7 => cases hok

/-- No event makes a well-formed latch ill-formed. -/
theorem latchWf_of_latchAfter {e : Option Pins} {r r' : Rsp} (h : LatchAfter e r r') (hr : latchWf r) :
    latchWf r' := by
  cases e with
  | none => exact h ▸ hr
  | some p =>
    cases hrst : p.rst with
    | true => exact (latchAfter_of_rst hrst).1 h ▸ latchWf_reset
    | false =>
      obtain ⟨u, hexec, rfl⟩ := (latchAfter_of_command hrst).1 h
      obtain ⟨u', hexec', hwf⟩ := exec_latchWf (decode p.command) State.reset
      obtain rfl : u' = u := by simpa [hexec'] using hexec
      exact hwf

/-- Settles O46: the reset latch, field by field. -/
theorem latchWellFormedAtReset : Obligations.LatchWellFormedAtReset := latchWf_reset

/-- Settles O47: a step does to the latch what the event at its edge does, and no event makes it ill-formed. -/
theorem stepKeepsLatchWellFormed : Obligations.StepKeepsLatchWellFormed := by
  intro s t hs hstep
  obtain ⟨t', hstep', -, hlatch⟩ := step_latchAfter s
  obtain rfl : t' = t := by simpa [hstep'] using hstep
  exact latchWf_of_latchAfter hlatch hs

end Sys2Proof.Machine

/-! ## Proofs: the integers of a line, a line from any state, an error that is not tested -/

namespace Sys2Proof.Script

open Sys2Proof.Machine

theorem decimal_wellFormed_iff (bits : Nat) (n : Int) : (IntArg.decimal n).wellFormed bits = true ↔
    -2 ^ (bits - 1) ≤ n ∧ n < 2 ^ (bits - 1) := decide_eq_true_iff

theorem hexNat_lt_of_wellFormed {bits : Nat} {d : List Nibble} (h : (IntArg.hex d).wellFormed bits = true) :
    hexNat d < 2 ^ bits := by
  obtain ⟨-, -, hlt⟩ := of_decide_eq_true h
  exact hlt

/-- The high half of the port is zero for an operand written as 32 bits (`30_encoding.md` R65). -/
theorem extractLsb'_high_setWidth (n : BitVec 32) : (n.setWidth 64).extractLsb' 32 32 = 0#32 := by
  have happend : n.setWidth 64 = 0#32 ++ n := BitVec.setWidth_eq_append (by decide)
  rw [happend, BitVec.extractLsb'_append_eq_left]

/-- Settles O53: a number in range is the signed reading of its pattern, and a pattern that fits is kept. -/
theorem integersAreAssembledAsPatterns : Obligations.IntegersAreAssembledAsPatterns := by
  refine ⟨fun n r h => ?_, fun n r h => ⟨?_, extractLsb'_high_setWidth _⟩, fun d r h => ?_, fun d r h => ?_⟩
  · obtain ⟨hlo, hhi⟩ := (decimal_wellFormed_iff 64 n).1 h
    exact toInt_ofInt64 hlo hhi
  · obtain ⟨hlo, hhi⟩ := (decimal_wellFormed_iff 32 n).1 h
    exact (congrArg BitVec.toInt (int32_setWidth _)).trans (toInt_ofInt32 hlo hhi)
  · exact Nat.mod_eq_of_lt (hexNat_lt_of_wellFormed h)
  · rw [IntArg.assemble32, BitVec.toNat_setWidth_of_le (by decide)]
    exact Nat.mod_eq_of_lt (hexNat_lt_of_wellFormed h)

/-- Settles O54: the command of a line goes through the signals whole; the words of R65 are the latch's fields. -/
theorem lineRunsItsInstruction : Obligations.LineRunsItsInstruction :=
  ⟨runLine_eq_exec, fun _ => ⟨rfl, rfl, rfl, rfl⟩⟩

/-- A line that ends with an error leaves no result. -/
theorem noResult_of_runLine {l : Line} {s t : State} (h : runLine l s = .next t)
    (hne : t.rsp.status ≠ Status.ok.code) : noResult t.rsp := by
  obtain ⟨t', hexec, -, -, hno⟩ := errorLeavesNoResult (l.instr s.rsp) s
  obtain rfl : t' = t := by simpa [runLine_eq_exec, hexec] using h
  exact hno hne

/-- Settles O56: the failed DEC left the value 0, which UP64 unpacks to 0; the sequence of `DECI64` stops before. -/
theorem errorIsLostWithoutTheTest : Obligations.ErrorIsLostWithoutTheTest := by
  intro a s t h hne
  obtain ⟨hrv, -, -, -⟩ := noResult_of_runLine h hne
  have hup : runLine (.up64 .rv) t = .next (doneInt (low64 0#128) t) := by
    rw [← hrv]
    exact runLine_eq_exec _ t
  exact ⟨⟨_, hup, rfl, rfl, rfl, rfl, rfl, rfl⟩, runItem_pseudo_of_error rfl h hne⟩

end Sys2Proof.Script
